-- ==== Sys2Proof/Word.lean ====
section
/-! DEFINITION. The word types of the engine (R11): 32-bit words, 8-bit bytes, and the two formats of instruction word (R70). -/

namespace Sys2Proof

/-- A word: 32 bits, unsigned, arithmetic modulo 2^32 (R8, R11, R12). -/
abbrev Word := BitVec 32

/-- A byte: 8 bits, unsigned (R8, R11). -/
abbrev Byte := BitVec 8

/-- A micro-op word of the stage ROM: format M, 64 bits (R70, R75). -/
abbrev MicroWord := BitVec 64

end Sys2Proof
end

