-- ==== Sys2Proof/Syntax.lean ====
section
/-! DEFINITION. The instructions: one constructor per row of spec/opcode_table.json, the six commands (R73) and the eight micro-operations (R76). -/

namespace Sys2Proof

/-- The two-level instruction set (R4). Commands have no operands: they take theirs from registers (R77).
The operands of a micro-op are the fields `AMT` (5 bits) and `IMM` (32 bits) of its word (R75). -/
inductive Instr where
  /-- `DERIVE` (R131). -/
  | derive
  /-- `VERIFY.A` (R134). -/
  | verifyA
  /-- `VERIFY.B` (R138). -/
  | verifyB
  /-- `EMIT.A` (R184). -/
  | emitA
  /-- `EMIT.B` (R185). -/
  | emitB
  /-- `DIGEST` (R168). -/
  | digest
  /-- `MNOP` (R101). -/
  | mnop
  /-- `ROTL n` (R102). -/
  | rotl (n : BitVec 5)
  /-- `ROTR n` (R103). -/
  | rotr (n : BitVec 5)
  /-- `SWAPH` (R105). -/
  | swaph
  /-- `BSWAP` (R106). -/
  | bswap
  /-- `SWAPG m, s` (R107): the mask first, then the shift (R82). -/
  | swapg (m : Word) (s : BitVec 5)
  /-- `XORC c` (R108). -/
  | xorc (c : Word)
  /-- `MULC c` (R109). -/
  | mulc (c : Word)
deriving DecidableEq, Repr

/-- The mnemonics of R73 and R76, the assembler's names (R82). -/
def Instr.mnemonic : Instr → String
  | .derive => "DERIVE"
  | .verifyA => "VERIFY.A"
  | .verifyB => "VERIFY.B"
  | .emitA => "EMIT.A"
  | .emitB => "EMIT.B"
  | .digest => "DIGEST"
  | .mnop => "MNOP"
  | .rotl _ => "ROTL"
  | .rotr _ => "ROTR"
  | .swaph => "SWAPH"
  | .bswap => "BSWAP"
  | .swapg _ _ => "SWAPG"
  | .xorc _ => "XORC"
  | .mulc _ => "MULC"

/-- The instruction is a command, issued by a write to `CMD` (R4, R71); the others are micro-ops of the mixer. -/
def Instr.isCommand : Instr → Bool
  | .derive | .verifyA | .verifyB | .emitA | .emitB | .digest => true
  | .mnop | .rotl _ | .rotr _ | .swaph | .bswap | .swapg _ _ | .xorc _ | .mulc _ => false

end Sys2Proof
end

