-- ==== Sys2Proof/WellFormed.lean ====
section
/-! DEFINITION. Which instructions are well formed: the field constraints of the micro-op table (R76, R78). -/

namespace Sys2Proof

/-- The constraint on the operands of `SWAPG m, s` (R76, R107): `1 ≤ s ≤ 31`, `m ≠ 0`, shifting the mask left by `s`
loses no bit, and the low and the high groups do not overlap. -/
def swapgOk (m : Word) (s : BitVec 5) : Bool :=
  s != 0 && m != 0 && m >>> (32 - s.toNat) == 0 && m &&& (m <<< s.toNat) == 0

/-- The field constraints of R76. Commands have no operand and are always well formed; the bound 31 on a rotate amount is the
width of `AMT`. That `MNOP` stands only in slot 2 is a matter of the ROM, not of the word (`StageRom.ok`). -/
def Instr.wf : Instr → Bool
  | .derive | .verifyA | .verifyB | .emitA | .emitB | .digest => true
  | .mnop | .swaph | .bswap => true
  | .rotl n | .rotr n => n != 0
  | .swapg m s => swapgOk m s
  | .xorc _ => true
  | .mulc c => c.getLsbD 0

end Sys2Proof
end

