-- ==== Sys2Proof/Decode.lean ====
section
/-! DEFINITION. Decoding: format C command words (R72 to R74) and format M micro-op words (R75 to R79), then the encoder from the same tables. -/

namespace Sys2Proof

/-- An instruction word in its place. R70: a decoder tells the format by where the word is, never by its bits: a value written
to `CMD` is format C, an entry of the stage ROM is format M. -/
inductive CodeWord where
  | command (w : Word)
  | micro (u : MicroWord)
deriving DecidableEq, Repr

/-! ## Format C (R72) -/

/-- `OPC`, bits 3:0 of a command word (R72). -/
def cmdOpc (w : Word) : BitVec 4 := w.extractLsb' 0 4

/-- `POL`, bit 4 of a command word (R72). -/
def cmdPol (w : Word) : Bool := w.getLsbD 4

/-- `ZERO`, bits 31:5 of a command word, which must be 0 (R72). -/
def cmdZero (w : Word) : BitVec 27 := w.extractLsb' 5 27

/-- The command of an opcode and a policy bit (R73). `DERIVE` and `DIGEST` exist with `POL` = 0 only (R74). -/
def commandOf (opc : BitVec 4) (pol : Bool) : Option Instr :=
  match opc.toNat, pol with
  | 1, false => some .derive
  | 2, false => some .verifyA
  | 2, true => some .verifyB
  | 3, false => some .emitA
  | 3, true => some .emitB
  | 4, false => some .digest
  | _, _ => none

/-- Command decode, total on 32-bit words: one of the six commands, or none, an illegal command word (R73, R74). -/
def decodeCommand (w : Word) : Option Instr :=
  if cmdZero w = 0 then commandOf (cmdOpc w) (cmdPol w) else none

/-! ## Format M (R75) -/

/-- `MOP`, bits 63:56 (R75). -/
def uMop (u : MicroWord) : BitVec 8 := u.extractLsb' 56 8

/-- `Z1`, bits 55:53, must be 0 (R75). -/
def uZ1 (u : MicroWord) : BitVec 3 := u.extractLsb' 53 3

/-- `AMT`, bits 52:48, an unsigned number used without scaling (R75, R77). -/
def uAmt (u : MicroWord) : BitVec 5 := u.extractLsb' 48 5

/-- `Z2`, bits 47:32, must be 0 (R75). -/
def uZ2 (u : MicroWord) : BitVec 16 := u.extractLsb' 32 16

/-- `IMM`, bits 31:0, used as it stands (R75, R77). -/
def uImm (u : MicroWord) : Word := u.extractLsb' 0 32

/-- The row of the micro-op map an opcode, amount and constant spell (R76): a field the row does not use must be 0 (R75). -/
def microOf (mop : BitVec 8) (amt : BitVec 5) (imm : Word) : Option Instr :=
  match mop.toNat with
  | 0 => if amt = 0 ∧ imm = 0 then some .mnop else none
  | 1 => if imm = 0 then some (.rotl amt) else none
  | 2 => if imm = 0 then some (.rotr amt) else none
  | 3 => if amt = 0 ∧ imm = 0 then some .swaph else none
  | 4 => if amt = 0 ∧ imm = 0 then some .bswap else none
  | 5 => some (.swapg imm amt)
  | 6 => if amt = 0 then some (.xorc imm) else none
  | 7 => if amt = 0 then some (.mulc imm) else none
  | _ => none

/-- Micro-op decode, total on 64-bit words (R79): a micro-op with its operands, or none, an invalid word (R78). -/
def decodeMicro (u : MicroWord) : Option Instr :=
  if uZ1 u = 0 ∧ uZ2 u = 0 then (microOf (uMop u) (uAmt u) (uImm u)).filter Instr.wf else none

/-- Decoding by place (R70). -/
def decode : CodeWord → Option Instr
  | .command w => decodeCommand w
  | .micro u => decodeMicro u

/-- What the decoder reads from an instruction of the opcode table: a 32-bit row is a format C word, a 64-bit row a format M
word (R70). Each is ONE word, so there is no order of words or bytes to lay out (R56). -/
def decodeTableWord (nbits w : Nat) : Option Instr :=
  if nbits = 32 then decode (.command (BitVec.ofNat 32 w))
  else if nbits = 64 then decode (.micro (BitVec.ofNat 64 w))
  else none

/-! ## The encoder -/

/-- A format C word from its fields (R72). -/
def cmdWord (opc : BitVec 4) (pol : Bool) : Word :=
  (0 : BitVec 27) ++ BitVec.ofBool pol ++ opc

/-- A format M word from its fields, `Z1` and `Z2` zero (R75). -/
def microWord (mop : BitVec 8) (amt : BitVec 5) (imm : Word) : MicroWord :=
  mop ++ (0 : BitVec 3) ++ amt ++ (0 : BitVec 16) ++ imm

/-- The word of an instruction (R73, R76), in the format of its level. -/
def encode : Instr → CodeWord
  | .derive => .command (cmdWord 1 false)
  | .verifyA => .command (cmdWord 2 false)
  | .verifyB => .command (cmdWord 2 true)
  | .emitA => .command (cmdWord 3 false)
  | .emitB => .command (cmdWord 3 true)
  | .digest => .command (cmdWord 4 false)
  | .mnop => .micro (microWord 0 0 0)
  | .rotl n => .micro (microWord 1 n 0)
  | .rotr n => .micro (microWord 2 n 0)
  | .swaph => .micro (microWord 3 0 0)
  | .bswap => .micro (microWord 4 0 0)
  | .swapg m s => .micro (microWord 5 s m)
  | .xorc c => .micro (microWord 6 0 c)
  | .mulc c => .micro (microWord 7 0 c)

/-- The micro-op word of an instruction; `enc` of R80. A command has none and gives the word of `MNOP`. -/
def encodeMicro (i : Instr) : MicroWord :=
  match encode i with
  | .micro u => u
  | .command _ => 0

/-- The `match` and `mask` columns of the two opcode maps, widened to 64 bits (R73: the mask of a command word is all ones; R76). -/
def Instr.tableRow : Instr → BitVec 64 × BitVec 64
  | .derive => (0x0000000000000001, 0x00000000FFFFFFFF)
  | .verifyA => (0x0000000000000002, 0x00000000FFFFFFFF)
  | .verifyB => (0x0000000000000012, 0x00000000FFFFFFFF)
  | .emitA => (0x0000000000000003, 0x00000000FFFFFFFF)
  | .emitB => (0x0000000000000013, 0x00000000FFFFFFFF)
  | .digest => (0x0000000000000004, 0x00000000FFFFFFFF)
  | .mnop => (0x0000000000000000, 0xFFFFFFFFFFFFFFFF)
  | .rotl _ => (0x0100000000000000, 0xFFE0FFFFFFFFFFFF)
  | .rotr _ => (0x0200000000000000, 0xFFE0FFFFFFFFFFFF)
  | .swaph => (0x0300000000000000, 0xFFFFFFFFFFFFFFFF)
  | .bswap => (0x0400000000000000, 0xFFFFFFFFFFFFFFFF)
  | .swapg _ _ => (0x0500000000000000, 0xFFE0FFFF00000000)
  | .xorc _ => (0x0600000000000000, 0xFFFFFFFF00000000)
  | .mulc _ => (0x0700000000000000, 0xFFFFFFFF00000000)

/-- The operands of an instruction are the free fields of a micro-op word (the "free fields" column of R76, and R77). -/
def Instr.operandsAre (u : MicroWord) : Instr → Bool
  | .derive | .verifyA | .verifyB | .emitA | .emitB | .digest => true
  | .mnop | .swaph | .bswap => true
  | .rotl n => n == uAmt u
  | .rotr n => n == uAmt u
  | .swapg m s => m == uImm u && s == uAmt u
  | .xorc c => c == uImm u
  | .mulc c => c == uImm u

/-- The bits of a word in its place, widened to 64 bits. -/
def CodeWord.bits : CodeWord → BitVec 64
  | .command w => w.setWidth 64
  | .micro u => u

end Sys2Proof
end

