-- ==== Sys2Proof/Config.lean ====
section
/-! DEFINITION. The configuration (R9): the open parameters, what makes them well formed, the stage ROM layout (R80), and the free values (U3, U12). -/

namespace Sys2Proof

/-! ## The stage ROM (R80) -/

/-- One stage of the ROM: `SROM[s][0]`, `SROM[s][1]`, `SROM[s][2]`, three format M words (R80). -/
structure StageRom where
  w0 : MicroWord
  w1 : MicroWord
  w2 : MicroWord
deriving DecidableEq, Repr, Inhabited

/-- `SROM[s][slot]`: the word of a slot, slots being 0, 1 and 2 (R80). -/
def StageRom.word (r : StageRom) (slot : Nat) : MicroWord :=
  match slot with
  | 0 => r.w0
  | 1 => r.w1
  | _ => r.w2

/-- The word spells a primitive, a micro-op other than `MNOP` (R80: slots 0 and 1 are never `MNOP`). -/
def isPrimitive (u : MicroWord) : Bool :=
  match decodeMicro u with
  | some .mnop => false
  | some _ => true
  | none => false

/-- A well-formed stage (R78, R80): a primitive in slots 0 and 1, a primitive or `MNOP` in slot 2. -/
def StageRom.ok (r : StageRom) : Bool :=
  isPrimitive r.w0 && isPrimitive r.w1 && (decodeMicro r.w2).isSome

/-- The micro-ops of a stage in slot order, as decoded (R110). -/
def StageRom.ops (r : StageRom) : List Instr :=
  [r.w0, r.w1, r.w2].filterMap decodeMicro

/-- An element a stage list may hold (R9): a well-formed micro-op that is not `MNOP`. -/
def stageElementOk (i : Instr) : Bool :=
  !i.isCommand && i != .mnop && i.wf

/-- The ROM form of a list `STAGE[s]` (R80): two primitives and `MNOP`, or three primitives. Every other list is ill formed
and has none (R78, U6). -/
def StageRom.ofList (l : List Instr) : Option StageRom :=
  if l.all stageElementOk then
    match l with
    | [p0, p1] => some ⟨encodeMicro p0, encodeMicro p1, encodeMicro .mnop⟩
    | [p0, p1, p2] => some ⟨encodeMicro p0, encodeMicro p1, encodeMicro p2⟩
    | _ => none
  else none

/-! ## The record Cfg (R9) -/

/-- The values of the open parameters, not yet checked (R9). -/
structure CfgData where
  /-- `SROM[1]`, the ROM form of `STAGE[1]`. -/
  rom1 : StageRom
  /-- `SROM[2]`. -/
  rom2 : StageRom
  /-- `SROM[3]`. -/
  rom3 : StageRom
  /-- `KA[1]` to `KA[4]`: the constants of the key derivation (R130). -/
  ka1 : Word
  ka2 : Word
  ka3 : Word
  ka4 : Word
  /-- `SEED` (R130). -/
  seed : Word
  /-- `MULB`, the multiplier of `BSTAGE` (R112). It need not be odd. -/
  mulb : Word
  /-- `ADDB`, the addend of `BSTAGE` (R112). -/
  addb : Word
  /-- `IBUF_MAX`, the capacity of the input buffer in bytes. -/
  ibufMax : Nat
  /-- `BASE`, where the platform places register number 0. No rule depends on it (R51). -/
  base : Nat
deriving DecidableEq, Repr, Inhabited

/-- The constraints of R9: three well-formed stages and `16 ≤ IBUF_MAX < 2^61`. -/
def CfgData.ok (d : CfgData) : Bool :=
  d.rom1.ok && d.rom2.ok && d.rom3.ok && decide (16 ≤ d.ibufMax) && decide (d.ibufMax < 2 ^ 61)

/-- A configuration: well formed by construction, so that no machine is built from an ill-formed one (R78, D29, U6). -/
structure Cfg extends CfgData where
  ok : toCfgData.ok = true
deriving DecidableEq, Repr

/-- Building a configuration: an ill-formed one is refused (D29). -/
def Cfg.ofData (d : CfgData) : Option Cfg :=
  if h : d.ok = true then some { toCfgData := d, ok := h } else none

/-- The offset from `BASE` of a platform address (R21, R51); an address below `BASE` is not this engine's. -/
def Cfg.offsetOf (c : Cfg) (address : Nat) : Option Nat :=
  if c.base ≤ address then some (address - c.base) else none

/-! ## The constants of the machine at hand

The source calls these constants fixed and never prints them (N8, N11, N14); R9: none of them may be guessed. They are constants
without a body: nothing in Lean can evaluate one or prove a value of one (log 1). -/

/-- The three words of each stage, 1 to 3, as some implementer might give them; used through `StageRom.cut`. -/
opaque Config.stage : Nat → StageRom

/-- `KA[1]` to `KA[4]`. -/
opaque Config.ka : Nat → Word

/-- `SEED`. -/
opaque Config.seed : Word

/-- `MULB`. -/
opaque Config.mulb : Word

/-- `ADDB`. -/
opaque Config.addb : Word

/-- `BASE`. -/
opaque Config.base : Nat

/-- The stage itself if it is well formed, else some well-formed stage: `StageRom.cut (Config.stage s)` is any well-formed stage
and no other (log 3). -/
def StageRom.cut (r : StageRom) : StageRom :=
  if r.ok then r else ⟨encodeMicro .swaph, encodeMicro .bswap, encodeMicro .mnop⟩

theorem StageRom.cut_ok (r : StageRom) : r.cut.ok = true := by
  unfold StageRom.cut
  split
  · assumption
  · decide

/-- The configuration of the machine at reset: every open parameter unknown, `IBUF_MAX` at the spec's default 63 (R9, U10; log 2).
A statement about every state covers every other configuration, since the state holds its own. -/
def Config.cfg : Cfg where
  rom1 := (Config.stage 1).cut
  rom2 := (Config.stage 2).cut
  rom3 := (Config.stage 3).cut
  ka1 := Config.ka 1
  ka2 := Config.ka 2
  ka3 := Config.ka 3
  ka4 := Config.ka 4
  seed := Config.seed
  mulb := Config.mulb
  addb := Config.addb
  ibufMax := 63
  base := Config.base
  ok := by simp [CfgData.ok, StageRom.cut_ok]

/-! ## Free values (U3, U12)

Constants without a body, one for each kind of open value, so that no two kinds are ever provably equal. -/

/-- What `CAND` holds after Reset number `n` until the host writes it (R220, U3; log 4). -/
opaque Config.resetCand : Nat → Word

/-- What byte `i` of `IBUF` holds after Reset number `n` until the host writes it (R220, U3; log 4). -/
opaque Config.resetIbuf : Nat → Nat → Byte

/-- What `KEY` holds after Reset number `n` while `REFV` = 0 (R220, U3; log 5). -/
opaque Config.resetKey : Nat → Word

/-- What `C1` holds after Reset number `n` while `REFV` = 0 (R220, U3; log 5). -/
opaque Config.resetC1 : Nat → Word

/-- What `C2` holds after Reset number `n` while `REFV` = 0 (R220, U3; log 5). -/
opaque Config.resetC2 : Nat → Word

/-- What `DOUT[j]` holds after Reset number `n` while `DV` = 0 (R220, U3; log 5). -/
opaque Config.resetDout : Nat → Nat → Word

/-- What `HEX[k]` holds after Reset number `n` while `DV` = 0 (R220, U3; log 5). -/
opaque Config.resetHex : Nat → Nat → Byte

/-- What `TOKEN[k]` holds after Reset number `n` while `TV` = 0 (R220, U3; log 5). -/
opaque Config.resetToken : Nat → Nat → Byte

/-- The value of the `n`-th host read that is answered with an unspecified word (R27, R28; log 9). -/
opaque Config.busWord : Nat → Word

/-- The value of the `n`-th host read that is answered with an unspecified byte (R27, R28; log 9). -/
opaque Config.busByte : Nat → Byte

end Sys2Proof
end

