-- ==== Sys2Proof/Machine/State.lean ====
section
/-! DEFINITION. The state as plain data (R20 to R22, R30, R31), the host's events (R16), the reasons a step can stop, and the state after Reset (R220). -/

namespace Sys2Proof.Machine

/-! ## The host's events (R16, R58) -/

/-- The width of a host access. The engine knows bytes and 32-bit words; every other width is a misfit (R58). -/
inductive Width where
  | byte
  | half
  | word
  /-- wider than a word -/
  | wide
deriving DecidableEq, Repr

/-- What a host write carries: a number of the width written (R56). -/
inductive Datum where
  | byte (v : Byte)
  | half (v : BitVec 16)
  | word (v : Word)
  | wide (v : BitVec 64)
deriving DecidableEq, Repr

/-- The three kinds of host event (R16). Offsets count from `BASE` (R21). -/
inductive HostEvent where
  /-- `Reset` (R220). -/
  | reset
  /-- `HostWrite`. -/
  | write (offset : Nat) (d : Datum)
  /-- `HostRead`. -/
  | read (offset : Nat) (w : Width)
deriving DecidableEq, Repr

/-! ## STATUS (R22) -/

/-- The fault causes (R191). Codes 6 to 15 are reserved and never written, so they have no name here. -/
inductive Cause where
  /-- code 0: no fault since Reset -/
  | none
  /-- code 1 -/
  | illegalCommand
  /-- code 2 -/
  | notDerived
  /-- code 3 -/
  | notAccepted
  /-- code 4 -/
  | lengthOverflow
  /-- code 5 -/
  | badAccess
deriving DecidableEq, Repr

/-- The fields of `STATUS` (R22). The register is read-only to the host and its reserved bits read 0, so the fields are all it holds;
the word the host reads is `Status.toWord`. -/
structure Status where
  /-- `REFV`: the ReferenceSet is valid. -/
  refv : Bool
  /-- `VV`: the verdict is valid. -/
  vv : Bool
  /-- `VERDICT`: accept or reject. -/
  verdict : Bool
  /-- `VPOL`: the policy of the verdict, true for Array-Equality (B). -/
  vpol : Bool
  /-- `DV`: `DOUT` and `HEX` hold a finished digest. -/
  dv : Bool
  /-- `TV`: `TOKEN` holds a finished token. -/
  tv : Bool
  /-- `ERR`: the sticky fault flag. -/
  err : Bool
  /-- `CAUSE`: the first fault since Reset. -/
  cause : Cause
deriving DecidableEq, Repr

/-! ## Eight words, and the internal transient state (R31) -/

/-- Eight words: the chaining state `H[0..7]` (R31) and the digest register `DOUT[0..7]` (R21). -/
structure Chain where
  w0 : Word
  w1 : Word
  w2 : Word
  w3 : Word
  w4 : Word
  w5 : Word
  w6 : Word
  w7 : Word
deriving DecidableEq, Repr

/-- The words in index order. -/
def Chain.toList (c : Chain) : List Word := [c.w0, c.w1, c.w2, c.w3, c.w4, c.w5, c.w6, c.w7]

/-- Word `j`. -/
def Chain.get (c : Chain) (j : Fin 8) : Word :=
  match j with
  | 0 => c.w0
  | 1 => c.w1
  | 2 => c.w2
  | 3 => c.w3
  | 4 => c.w4
  | 5 => c.w5
  | 6 => c.w6
  | 7 => c.w7

/-- The mixer's accumulator `MX` and its slot counter (R31). -/
structure Mixer where
  mx : Word
  slot : Nat
deriving DecidableEq, Repr

/-- The digest engine's working storage (R31). -/
structure ShaRegs where
  /-- `PM`, the padded message. -/
  pm : List Byte
  /-- `blk`, the block counter. -/
  blk : Nat
  /-- `t`, the round counter. -/
  t : Nat
  /-- `H[0..7]`, the running chaining state. -/
  hh : Chain
  /-- `W[0..63]`, the message schedule. -/
  w : Vector Word 64
  a : Word
  b : Word
  c : Word
  d : Word
  e : Word
  f : Word
  g : Word
  h : Word
  t1 : Word
  t2 : Word
deriving DecidableEq, Repr

/-! ## The state -/

/-- Bytes at addresses, in ascending order of address and without repeats: the cells written since Reset. An address that is not
listed holds no written byte (`Memory.read` gives none). -/
abbrev Memory := List Host.Cell

/-- The whole state of the engine (R20), and the model's own record of the host's side. -/
structure State where
  /-- The read-only constants `SROM`, `KA`, `SEED`, `MULB`, `ADDB` and the parameters `IBUF_MAX`, `BASE` (R9, R30). -/
  cfg : Cfg
  /-- `STATUS` (R22). -/
  status : Status
  /-- `CAND` (R21). -/
  cand : Word
  /-- `ILEN` (R21, R23). -/
  ilen : Word
  /-- `KEY` (R21, R130). -/
  key : Word
  /-- `C1` (R21, R130). -/
  c1 : Word
  /-- `C2` (R21, R130). -/
  c2 : Word
  /-- `DOUT[0..7]` (R21). -/
  dout : Chain
  /-- `HEX[0..63]` (R21). -/
  hex : Vector Byte 64
  /-- `TOKEN[0..72]` (R21). -/
  token : Vector Byte 73
  /-- `IBUF`: the bytes the host has written since Reset, by index (R21, R23). -/
  ibuf : Memory
  /-- `MX` and `slot` (R31). -/
  mixer : Mixer
  /-- `XT[0..15]`, the transformed array (R31, R136). -/
  xt : Vector Byte 16
  /-- `idx`, the byte index of `VERIFY.B` (R31). -/
  idx : Nat
  /-- `MSG`, the message being digested (R31). -/
  msg : List Byte
  /-- `DEC[0..9]`, the decimal rendering (R31). -/
  dec : Vector Byte 10
  /-- `DLEN`, how many digits `DEC` holds (R31). -/
  dlen : Nat
  /-- The digest engine's working storage (R31). -/
  sha : ShaRegs
  /-- The model's own: a micro-op word the mixer is to execute as a step of its own. None between host events (log 8). -/
  uop : Option MicroWord
  /-- The model's own: the host events still to come, oldest first (R62, R230; log 7). -/
  host : List HostEvent
  /-- The model's own: the values the host's reads have returned, newest first; a byte is widened with zeros (log 7). -/
  reads : List Word
  /-- The model's own: how many reads were answered with an unspecified value, the index of the next free one (log 9). -/
  draws : Nat
  /-- The model's own: how many Resets came before the last one, the index of the free contents of `CAND` and `IBUF` (log 4). -/
  resets : Nat
deriving DecidableEq, Repr

/-! ## Stops -/

/-- The faults that end a run: there are none, so the type has no constructor. The engine's own five faults (R191) do not stop the
machine: they are next states with `ERR` and `CAUSE` set, made by `raiseFault` (R193, R194). Safe: nothing is cut short. -/
inductive Fault
deriving DecidableEq, Repr

/-- The refusals. -/
inductive Refusal where
  /-- Raised by an arm of `exec` whose instruction has no meaning in the model yet. Safe: the model stops where the hardware goes on. -/
  | notModelled (mnemonic : String)
  /-- Raised by the meaning of a micro-op whose operands violate the field constraint of R76, and by a step whose micro-op word is
  invalid (R78). Such a word makes a configuration ill formed, "the model refuses to build a machine from it". Safe, and in no
  reachable state: a configuration's ROM is well formed and no event sets `uop`. -/
  | invalidMicroOp
deriving DecidableEq, Repr

/-! ## Reset (R220) -/

/-- The working storage after Reset: unspecified and irrelevant (R31), zero here (log 6). -/
def ShaRegs.initial : ShaRegs where
  pm := []
  blk := 0
  t := 0
  hh := ⟨0, 0, 0, 0, 0, 0, 0, 0⟩
  w := Vector.replicate 64 0
  a := 0
  b := 0
  c := 0
  d := 0
  e := 0
  f := 0
  g := 0
  h := 0
  t1 := 0
  t2 := 0

/-- The state after Reset number `n` of a machine with configuration `c` (R220): `STATUS` and `ILEN` are 0, the constants are as
always; `CAND` and `IBUF` hold free contents (log 4), and so do the registers a valid flag guards (log 5). -/
def State.afterReset (c : Cfg) (n : Nat) : State where
  cfg := c
  status :=
    { refv := false, vv := false, verdict := false, vpol := false, dv := false, tv := false, err := false, cause := .none }
  cand := Config.resetCand n
  ilen := 0
  key := Config.resetKey n
  c1 := Config.resetC1 n
  c2 := Config.resetC2 n
  dout :=
    ⟨Config.resetDout n 0, Config.resetDout n 1, Config.resetDout n 2, Config.resetDout n 3, Config.resetDout n 4,
      Config.resetDout n 5, Config.resetDout n 6, Config.resetDout n 7⟩
  hex := Vector.ofFn fun k => Config.resetHex n k.val
  token := Vector.ofFn fun k => Config.resetToken n k.val
  ibuf := []
  mixer := { mx := 0, slot := 0 }
  xt := Vector.replicate 16 0
  idx := 0
  msg := []
  dec := Vector.replicate 10 0
  dlen := 0
  sha := ShaRegs.initial
  uop := none
  host := []
  reads := []
  draws := 0
  resets := n

/-- The machine right after its first Reset, no host event pending (R220, R221). -/
def State.reset : State := State.afterReset Config.cfg 0

end Sys2Proof.Machine
end

