-- ==== Sys2Proof/Machine/Flags.lean ====
section
/-! DEFINITION. Every change of a `STATUS` flag the spec gives, the gates that read them (R25), and the word the host reads (R22). -/

namespace Sys2Proof.Machine

/-- The cause codes of R191. -/
def Cause.code : Cause → BitVec 4
  | .none => 0
  | .illegalCommand => 1
  | .notDerived => 2
  | .notAccepted => 3
  | .lengthOverflow => 4
  | .badAccess => 5

/-- `STATUS` as the host reads it (R22): `CAUSE` in bits 11:8, `ERR` in bit 7, bit 6 and bits 31:12 zero. `VERDICT` and `VPOL` read 0
while `VV` = 0, and `CAUSE` reads 0 while `ERR` = 0. -/
def Status.toWord (f : Status) : Word :=
  (0 : BitVec 20) ++ (if f.err then f.cause.code else 0) ++ BitVec.ofBool f.err ++ (0 : BitVec 1) ++ BitVec.ofBool f.tv ++
    BitVec.ofBool f.dv ++ BitVec.ofBool (f.vv && f.vpol) ++ BitVec.ofBool (f.vv && f.verdict) ++ BitVec.ofBool f.vv ++
    BitVec.ofBool f.refv

/-- The flags after a fault with cause `c` (R193): `ERR` set, `CAUSE` written, nothing else. -/
def Status.raise (f : Status) (c : Cause) : Status := { f with err := true, cause := c }

/-- The flags after an accepted input write (R26): `VV`, `VERDICT` and `VPOL` cleared. -/
def Status.clearVerdict (f : Status) : Status := { f with vv := false, verdict := false, vpol := false }

/-- The flags after a verification under policy `pol` with result `ok` (R134, R138). -/
def Status.setVerdict (f : Status) (pol ok : Bool) : Status := { f with vv := true, verdict := ok, vpol := pol }

/-- The flags after `DERIVE` (R131). -/
def Status.setRefv (f : Status) : Status := { f with refv := true }

/-- The flags after `DIGEST` (R168). -/
def Status.setDv (f : Status) : Status := { f with dv := true }

/-- The flags after `EMIT.A` or `EMIT.B` (R184, R185). -/
def Status.setToken (f : Status) : Status := { f with dv := true, tv := true }

/-- The gate of `EMIT` under policy `pol` (R25, R184, R185): the last verification was of this policy, it accepted, and no input was
written since. -/
def Status.accepted (f : Status) (pol : Bool) : Bool := f.vv && f.verdict && f.vpol == pol

end Sys2Proof.Machine
end

