-- ==== Sys2Proof/Machine/Ops.lean ====
section
/-! DEFINITION. The named operations over the written cells of a byte array and over the registers, taking a fault (R193) and Reset (R220), the only way out of one (R195). -/

namespace Sys2Proof.Machine

/-! ## Written cells -/

/-- The byte written at an address since Reset, none where nothing was. -/
def Memory.read (m : Memory) (a : Nat) : Option Byte :=
  match m with
  | [] => none
  | (k, b) :: rest => if k = a then some b else if a < k then none else Memory.read rest a

/-- `MemWrite(A+a, 1, b)` (R14), keeping the cells in ascending order. -/
def Memory.write (m : Memory) (a : Nat) (b : Byte) : Memory :=
  match m with
  | [] => [(a, b)]
  | (k, c) :: rest =>
    if k = a then (a, b) :: rest
    else if a < k then (a, b) :: (k, c) :: rest
    else (k, c) :: Memory.write rest a b

/-- The canonical form above a bound: addresses strictly rising, all at least `lo`. -/
def Memory.wfFrom (lo : Nat) (m : Memory) : Bool :=
  match m with
  | [] => true
  | (k, _) :: rest => decide (lo ≤ k) && Memory.wfFrom (k + 1) rest

/-- The canonical form: addresses strictly rising. An unlisted address holds no written byte, so no entry can equal what it reads as. -/
def Memory.wf (m : Memory) : Bool := Memory.wfFrom 0 m

/-- Every written address lies below a bound. -/
def Memory.below (m : Memory) (n : Nat) : Bool := m.all (fun cell => decide (cell.1 < n))

/-! ## Reading the inputs -/

/-- `IBUF[i]`: the byte the host wrote, or what the buffer held after Reset (R220, U3; log 4). -/
def State.ibufByte (s : State) (i : Nat) : Byte :=
  (Memory.read s.ibuf i).getD (Config.resetIbuf s.resets i)

/-- `IBUF[i..i+n-1]`, in index order. -/
def State.ibufFrom (s : State) (i : Nat) (n : Nat) : List Byte :=
  match n with
  | 0 => []
  | n + 1 => s.ibufByte i :: s.ibufFrom (i + 1) n

/-- `IBUF[0..ILEN-1]`, the input byte sequence (R60, R168, R185). -/
def State.input (s : State) : List Byte := s.ibufFrom 0 s.ilen.toNat

/-! ## Accepted input writes (R26) -/

/-- The side effect of an accepted input write (R26). -/
def State.clearVerdict (s : State) : State := { s with status := s.status.clearVerdict }

/-- An accepted write to `CAND` (R26, R196). -/
def State.storeCand (s : State) (v : Word) : State := { s with cand := v }.clearVerdict

/-- An accepted write to `ILEN` (R26, R196). -/
def State.storeIlen (s : State) (v : Word) : State := { s with ilen := v }.clearVerdict

/-- An accepted write to `IBUF[i]` (R26, R196). -/
def State.storeIbuf (s : State) (i : Nat) (b : Byte) : State := { s with ibuf := Memory.write s.ibuf i b }.clearVerdict

/-! ## Taking a fault, and Reset -/

/-- Fault entry (R193): `ERR` and `CAUSE` are written and nothing else. There is no vector, no saved state and no mode. -/
def raiseFault (c : Cause) (s : State) : State := { s with status := s.status.raise c }

/-- The `Reset` event (R220): the only thing that clears a fault (R195). Nothing of the engine survives but its constants. The host's
side, the events still to come and the values read so far, is not the engine's and stays. -/
def resetEngine (s : State) : State :=
  { State.afterReset s.cfg (s.resets + 1) with host := s.host, reads := s.reads, draws := s.draws }

end Sys2Proof.Machine
end

