-- ==== Sys2Proof/Machine/Operands.lean ====
section
/-! DEFINITION. The register map (R21, R28, R58): which register or array element a host access names, and what a read of it gives (R27); the word arithmetic the instructions share (R12, R13, R104). -/

namespace Sys2Proof.Machine

/-! ## Shifts and rotates -/

/-- `rotl(x, n)` (R13), for `1 ≤ n ≤ 31`. -/
def rotl (x : Word) (n : Nat) : Word := (x <<< n) ||| (x >>> (32 - n))

/-- `rotr(x, n)` (R13), for `1 ≤ n ≤ 31`. -/
def rotr (x : Word) (n : Nat) : Word := (x >>> n) ||| (x <<< (32 - n))

/-- `SHR(x, n)` (R104): a logical right shift. -/
def shr (x : Word) (n : Nat) : Word := x >>> n

/-- Four bytes as a word, the first most significant (R52). -/
def be32 (b0 b1 b2 b3 : Byte) : Word := b0 ++ b1 ++ b2 ++ b3

/-! ## The register map (R21) -/

/-- What an access names: a register or array element of R21, or nothing, an undefined offset (R28). -/
inductive Target where
  | cmd
  | status
  | cand
  | ilen
  | key
  | c1
  | c2
  | dout (j : Fin 8)
  | tgt (i : Fin 16)
  | hex (i : Fin 64)
  | token (i : Fin 73)
  | ibuf (i : Nat)
  | undefinedOffset
deriving DecidableEq, Repr

/-- The word register at an offset (R21, R58): the listed offsets only, so a word access that is not aligned names nothing. -/
def locateWord (offset : Nat) : Target :=
  if offset = 0x000 then .cmd
  else if offset = 0x004 then .status
  else if offset = 0x008 then .cand
  else if offset = 0x00C then .ilen
  else if offset = 0x010 then .key
  else if offset = 0x014 then .c1
  else if offset = 0x018 then .c2
  else if h : 0x020 ≤ offset ∧ offset < 0x040 ∧ offset % 4 = 0 then .dout ⟨(offset - 0x020) / 4, by omega⟩
  else .undefinedOffset

/-- The array element at an offset (R21, R58), with `IBUF_MAX` as given. -/
def locateByte (ibufMax : Nat) (offset : Nat) : Target :=
  if h : 0x040 ≤ offset ∧ offset < 0x050 then .tgt ⟨offset - 0x040, by omega⟩
  else if h : 0x080 ≤ offset ∧ offset < 0x0C0 then .hex ⟨offset - 0x080, by omega⟩
  else if h : 0x0C0 ≤ offset ∧ offset < 0x109 then .token ⟨offset - 0x0C0, by omega⟩
  else if 0x200 ≤ offset ∧ offset < 0x200 + ibufMax then .ibuf (offset - 0x200)
  else .undefinedOffset

/-- What an access of a width at an offset names (R58): any access that does not fit is one to an undefined offset. -/
def locate (ibufMax : Nat) (offset : Nat) (w : Width) : Target :=
  match w with
  | .word => locateWord offset
  | .byte => locateByte ibufMax offset
  | .half => .undefinedOffset
  | .wide => .undefinedOffset

/-- The offset column of R21; an undefined offset has none and gives 0x01C, the first of them. -/
def Target.offset : Target → Nat
  | .cmd => 0x000
  | .status => 0x004
  | .cand => 0x008
  | .ilen => 0x00C
  | .key => 0x010
  | .c1 => 0x014
  | .c2 => 0x018
  | .dout j => 0x020 + 4 * j.val
  | .tgt i => 0x040 + i.val
  | .hex i => 0x080 + i.val
  | .token i => 0x0C0 + i.val
  | .ibuf i => 0x200 + i
  | .undefinedOffset => 0x01C

/-- The width column of R21 (R58). -/
def Target.width : Target → Width
  | .cmd | .status | .cand | .ilen | .key | .c1 | .c2 | .dout _ | .undefinedOffset => .word
  | .tgt _ | .hex _ | .token _ | .ibuf _ => .byte

/-- The access column of R21: the host may write it. -/
def Target.writable : Target → Bool
  | .cmd | .cand | .ilen | .ibuf _ => true
  | .status | .key | .c1 | .c2 | .dout _ | .tgt _ | .hex _ | .token _ | .undefinedOffset => false

/-- The width of a datum. -/
def Datum.width : Datum → Width
  | .byte _ => .byte
  | .half _ => .half
  | .word _ => .word
  | .wide _ => .wide

/-! ## TGT (R30) -/

/-- `TGT[0..15]`, the fixed target table (R30), part of the ReferenceSet and never written. -/
def tgtTable : Vector Byte 16 :=
  #v[0x9C, 0xB5, 0x9E, 0xFA, 0x76, 0x4E, 0xCA, 0xD7, 0x26, 0xFD, 0x8E, 0x56, 0xB6, 0xBE, 0x0E, 0x8D]

/-! ## What a host read gives -/

/-- The value of a register or array element as the host reads it, none where it is unspecified: an output whose valid flag is 0
(R27), an undefined offset (R28). `CMD` reads as 0 (R21). A byte is widened with zeros. -/
def State.readTarget (s : State) : Target → Option Word
  | .cmd => some 0
  | .status => some s.status.toWord
  | .cand => some s.cand
  | .ilen => some s.ilen
  | .key => if s.status.refv then some s.key else none
  | .c1 => if s.status.refv then some s.c1 else none
  | .c2 => if s.status.refv then some s.c2 else none
  | .dout j => if s.status.dv then some (s.dout.get j) else none
  | .tgt i => some (tgtTable[i].setWidth 32)
  | .hex i => if s.status.dv then some (s.hex[i].setWidth 32) else none
  | .token i => if s.status.tv then some (s.token[i].setWidth 32) else none
  | .ibuf i => some ((s.ibufByte i).setWidth 32)
  | .undefinedOffset => none

/-- The free value of an unspecified read (R27, R28; log 9): a byte for a byte access, else a word. -/
def unspecifiedRead (w : Width) (draw : Nat) : Word :=
  match w with
  | .byte => (Config.busByte draw).setWidth 32
  | .half => Config.busWord draw
  | .word => Config.busWord draw
  | .wide => Config.busWord draw

end Sys2Proof.Machine
end

