-- ==== Sys2Proof/Machine/Mixer.lean ====
section
/-! DEFINITION. WordMixer: the eight micro-operations (R100 to R109), the evaluation of a stage (R110), the pipeline (R111) and the Variant B stage (R112). -/

namespace Sys2Proof.Machine

/-! ## The functions of the micro-ops -/

/-- `MNOP` (R101): the identity. -/
def mnopFn (x : Word) : Word := x

/-- `ROTL n` (R102). -/
def rotlFn (n : BitVec 5) (x : Word) : Word := rotl x n.toNat

/-- `ROTR n` (R103). -/
def rotrFn (n : BitVec 5) (x : Word) : Word := rotr x n.toNat

/-- `SWAPH` (R105): `x[31:16]` and `x[15:0]` change places. -/
def swaphFn (x : Word) : Word := (x <<< 16) ||| (x >>> 16)

/-- `BSWAP` (R106): the four bytes in reverse order. -/
def bswapFn (x : Word) : Word :=
  ((x &&& 0xFF) <<< 24) ||| ((x &&& 0xFF00) <<< 8) ||| ((x >>> 8) &&& 0xFF00) ||| (x >>> 24)

/-- `SWAPG m, s` (R107): each bit `m` selects changes places with the bit `s` above it; the others stay. -/
def swapgFn (m : Word) (s : BitVec 5) (x : Word) : Word :=
  ((x &&& m) <<< s.toNat) ||| ((x >>> s.toNat) &&& m) ||| (x &&& ~~~(m ||| (m <<< s.toNat)))

/-- `XORC c` (R108). -/
def xorcFn (c : Word) (x : Word) : Word := x ^^^ c

/-- `MULC c` (R109): the low 32 bits of the product. -/
def mulcFn (c : Word) (x : Word) : Word := x * c

/-- The function of a micro-op (R100). A command is no micro-op and leaves the word as it is; no decoded ROM word is one. -/
def microOp : Instr → Word → Word
  | .mnop => mnopFn
  | .rotl n => rotlFn n
  | .rotr n => rotrFn n
  | .swaph => swaphFn
  | .bswap => bswapFn
  | .swapg m s => swapgFn m s
  | .xorc c => xorcFn c
  | .mulc c => mulcFn c
  | .derive | .verifyA | .verifyB | .emitA | .emitB | .digest => id

/-! ## Stage evaluation (R110) -/

/-- `MX <- op(MX)` for the micro-op a ROM word spells. An invalid word would leave `MX`; a configuration holds none (R78). -/
def microWordFn (u : MicroWord) (x : Word) : Word :=
  match decodeMicro u with
  | some i => microOp i x
  | none => x

/-- One turn of the loop of R110: the word of the present slot is decoded and applied, and the slot counter advances. -/
def Mixer.turn (r : StageRom) (m : Mixer) : Mixer :=
  { mx := microWordFn (r.word m.slot) m.mx, slot := m.slot + 1 }

/-- `StageEval(s, x)` on the mixer's registers (R110): `MX <- x`, then slots 0, 1, 2 in this order. -/
def Mixer.stage (r : StageRom) (x : Word) (m : Mixer) : Mixer :=
  Mixer.turn r (Mixer.turn r (Mixer.turn r { m with mx := x, slot := 0 }))

/-- `StageEval(s, x)` as a function: the word the mixer's registers end with (R110). -/
def stageEval (r : StageRom) (x : Word) : Word :=
  (Mixer.stage r x { mx := x, slot := 0 }).mx

/-- `S1`, the source's stage1 (R111). -/
def stage1 (c : Cfg) (x : Word) : Word := stageEval c.rom1 x

/-- `S2`, the source's stage2 (R111). -/
def stage2 (c : Cfg) (x : Word) : Word := stageEval c.rom2 x

/-- `S3`, the source's stage3 (R111). -/
def stage3 (c : Cfg) (x : Word) : Word := stageEval c.rom3 x

/-- The pipeline `P(x) = S3(S2(S1(x)))` (R111). -/
def pipeline (c : Cfg) (x : Word) : Word := stage3 c (stage2 c (stage1 c x))

/-! ## The Variant B stage (R112) -/

/-- `BSTAGE(b, i)` (R112). The shifts of the last line are shifts of the whole word, not of its low byte (C4). -/
def bstage (c : Cfg) (b : Byte) (i : Nat) : Byte :=
  let t : Word := b.setWidth 32 * c.mulb
  let t : Word := t + c.addb
  let u : Word := t ^^^ BitVec.ofNat 32 (3 * i + 5)
  ((u <<< 1) ||| (u >>> 7)).setWidth 8

/-! ## The meanings of the micro-ops: `MX <- op(MX)` -/

/-- What every micro-op does to the state: it reads and writes `MX` and nothing else, and it cannot fault (R100). An operand that
violates the field constraint of R76 makes no micro-op at all (R78). -/
def runMicro (i : Instr) (s : State) : Host.Outcome State Fault Refusal :=
  if i.wf then .next { s with mixer := { s.mixer with mx := microOp i s.mixer.mx } } else .refused .invalidMicroOp

/-- `MNOP` (R101). -/
def execMnop (s : State) : Host.Outcome State Fault Refusal := runMicro .mnop s

/-- `ROTL n` (R102). -/
def execRotl (n : BitVec 5) (s : State) : Host.Outcome State Fault Refusal := runMicro (.rotl n) s

/-- `ROTR n` (R103). -/
def execRotr (n : BitVec 5) (s : State) : Host.Outcome State Fault Refusal := runMicro (.rotr n) s

/-- `SWAPH` (R105). -/
def execSwaph (s : State) : Host.Outcome State Fault Refusal := runMicro .swaph s

/-- `BSWAP` (R106). -/
def execBswap (s : State) : Host.Outcome State Fault Refusal := runMicro .bswap s

/-- `SWAPG m, s` (R107). -/
def execSwapg (m : Word) (sh : BitVec 5) (s : State) : Host.Outcome State Fault Refusal := runMicro (.swapg m sh) s

/-- `XORC c` (R108). -/
def execXorc (c : Word) (s : State) : Host.Outcome State Fault Refusal := runMicro (.xorc c) s

/-- `MULC c` (R109). -/
def execMulc (c : Word) (s : State) : Host.Outcome State Fault Refusal := runMicro (.mulc c) s

end Sys2Proof.Machine
end

