-- ==== Sys2Proof/Machine/Verifier.lean ====
section
/-! DEFINITION. KeyDeriver and Verifier: the reference values (R130), `DERIVE` (R131), `VERIFY.A` (R133, R134) and `VERIFY.B` (R136 to R138). -/

namespace Sys2Proof.Machine

/-! ## The reference values (R130) -/

/-- `KEY = O1 ^ O2 ^ O3 ^ KA[4]` (R130, C3). -/
def refKey (c : Cfg) : Word := stage1 c c.ka1 ^^^ stage2 c c.ka2 ^^^ stage3 c c.ka3 ^^^ c.ka4

/-- `C1 = S2(S1(SEED))` (R130). -/
def refC1 (c : Cfg) : Word := stage2 c (stage1 c c.seed)

/-- `C2 = S3(C1) ^ KEY` (R130). -/
def refC2 (c : Cfg) : Word := stage3 c (refC1 c) ^^^ refKey c

/-- `DERIVE` (R131): `KEY`, `C1`, `C2` and `REFV`. The last stage evaluation is that of `S3(C1)`, which leaves its result in `MX`. -/
def execDerive (s : State) : Host.Outcome State Fault Refusal :=
  .next
    { s with
      key := refKey s.cfg
      c1 := refC1 s.cfg
      c2 := refC2 s.cfg
      mixer := Mixer.stage s.cfg.rom3 (refC1 s.cfg) s.mixer
      status := s.status.setRefv }

/-! ## Policy XOR-Equality (R133, R134) -/

/-- `VerifyA(x)` (R133): the pipeline's result XOR the key equals `C1 ^ C2`. -/
def verifyA (c : Cfg) (x : Word) : Bool := (pipeline c x ^^^ refKey c) == (refC1 c ^^^ refC2 c)

/-- `VERIFY.A` (R134): it compares with the registers `KEY`, `C1`, `C2`. -/
def execVerifyA (s : State) : Host.Outcome State Fault Refusal :=
  if s.status.refv then
    let m := Mixer.stage s.cfg.rom3 (stage2 s.cfg (stage1 s.cfg s.cand)) s.mixer
    .next
      { s with
        mixer := m
        status := s.status.setVerdict false ((m.mx ^^^ s.key) == (s.c1 ^^^ s.c2)) }
  else .next (raiseFault .notDerived s)

/-! ## Policy Array-Equality (R136 to R138) -/

/-- `XT[i..]` of the bytes from index `i` on: each byte through `BSTAGE` with its position (R136). -/
def transform (c : Cfg) (i : Nat) (l : List Byte) : List Byte :=
  match l with
  | [] => []
  | b :: rest => bstage c b i :: transform c (i + 1) rest

theorem transform_length (c : Cfg) (i : Nat) (l : List Byte) : (transform c i l).length = l.length := by
  induction l generalizing i with
  | nil => rfl
  | cons b rest ih => simp [transform, ih]

/-- `VerifyB(s)` (R137): false unless the length is 16, and then every element equals the target's. -/
def verifyB (c : Cfg) (l : List Byte) : Bool := l.length == 16 && transform c 0 l == tgtTable.toList

theorem ibufFrom_length (s : State) (i n : Nat) : (s.ibufFrom i n).length = n := by
  induction n generalizing i with
  | zero => rfl
  | succ n ih => simp [State.ibufFrom, ih]

/-- The transformed array of `IBUF[0..15]` (R136, R138). -/
def State.transformed (s : State) : Vector Byte 16 :=
  ⟨(transform s.cfg 0 (s.ibufFrom 0 16)).toArray, by simp [transform_length, ibufFrom_length]⟩

/-- `VERIFY.B` (R138). With a length other than 16 the verdict is reject, `IBUF` is not read and `XT` is not computed; that is no
fault (R190). -/
def execVerifyB (s : State) : Host.Outcome State Fault Refusal :=
  if s.status.refv then
    if s.ilen = 16 then
      .next
        { s with
          xt := s.transformed
          idx := 16
          status := s.status.setVerdict true (s.transformed.toList == tgtTable.toList) }
    else .next { s with status := s.status.setVerdict true false }
  else .next (raiseFault .notDerived s)

end Sys2Proof.Machine
end

