-- ==== Sys2Proof/Machine/Sha.lean ====
section
/-! DEFINITION. DigestEngine: the constants (R152, R153), the six functions (R154 to R159), padding (R160), the schedule (R162, R163), the rounds (R164, R165), the digest (R166), its text (R167), and `DIGEST` (R168). -/

namespace Sys2Proof.Machine

/-! ## Constants -/

/-- `K[0..63]` (R152). -/
def roundConstants : List Word :=
  [0x428a2f98, 0x71374491, 0xb5c0fbcf, 0xe9b5dba5, 0x3956c25b, 0x59f111f1, 0x923f82a4, 0xab1c5ed5] ++
  [0xd807aa98, 0x12835b01, 0x243185be, 0x550c7dc3, 0x72be5d74, 0x80deb1fe, 0x9bdc06a7, 0xc19bf174] ++
  [0xe49b69c1, 0xefbe4786, 0x0fc19dc6, 0x240ca1cc, 0x2de92c6f, 0x4a7484aa, 0x5cb0a9dc, 0x76f988da] ++
  [0x983e5152, 0xa831c66d, 0xb00327c8, 0xbf597fc7, 0xc6e00bf3, 0xd5a79147, 0x06ca6351, 0x14292967] ++
  [0x27b70a85, 0x2e1b2138, 0x4d2c6dfc, 0x53380d13, 0x650a7354, 0x766a0abb, 0x81c2c92e, 0x92722c85] ++
  [0xa2bfe8a1, 0xa81a664b, 0xc24b8b70, 0xc76c51a3, 0xd192e819, 0xd6990624, 0xf40e3585, 0x106aa070] ++
  [0x19a4c116, 0x1e376c08, 0x2748774c, 0x34b0bcb5, 0x391c0cb3, 0x4ed8aa4a, 0x5b9cca4f, 0x682e6ff3] ++
  [0x748f82ee, 0x78a5636f, 0x84c87814, 0x8cc70208, 0x90befffa, 0xa4506ceb, 0xbef9a3f7, 0xc67178f2]

/-- `H0[0..7]` (R153). -/
def initialChain : Chain :=
  ⟨0x6a09e667, 0xbb67ae85, 0x3c6ef372, 0xa54ff53a, 0x510e527f, 0x9b05688c, 0x1f83d9ab, 0x5be0cd19⟩

/-! ## The six functions -/

/-- `Ch` (R154). -/
def ch (x y z : Word) : Word := (x &&& y) ^^^ (~~~x &&& z)

/-- `Maj` (R155). -/
def maj (x y z : Word) : Word := (x &&& y) ^^^ (x &&& z) ^^^ (y &&& z)

/-- `SSIG0` (R156, C1). -/
def ssig0 (x : Word) : Word := rotr x 7 ^^^ rotr x 18 ^^^ shr x 3

/-- `SSIG1` (R157, C1). -/
def ssig1 (x : Word) : Word := rotr x 17 ^^^ rotr x 19 ^^^ shr x 10

/-- `BSIG0` (R158, C1). -/
def bsig0 (x : Word) : Word := rotr x 2 ^^^ rotr x 13 ^^^ rotr x 22

/-- `BSIG1` (R159, C1). -/
def bsig1 (x : Word) : Word := rotr x 6 ^^^ rotr x 11 ^^^ rotr x 25

/-! ## Padding (R160) -/

/-- `z`: the least number with `(n + 1 + z) mod 64 = 56` (R160). -/
def padZeros (n : Nat) : Nat := (119 - n % 64) % 64

/-- The eight bytes of a 64-bit length, most significant first (R53). -/
def lengthBytes (l : BitVec 64) : List Byte :=
  [l.extractLsb' 56 8, l.extractLsb' 48 8, l.extractLsb' 40 8, l.extractLsb' 32 8,
    l.extractLsb' 24 8, l.extractLsb' 16 8, l.extractLsb' 8 8, l.extractLsb' 0 8]

/-- `Pad(msg)` (R160): the message, one byte 0x80, zeros, the length in bits. -/
def pad (msg : List Byte) : List Byte :=
  msg ++ [0x80] ++ List.replicate (padZeros msg.length) 0 ++ lengthBytes (BitVec.ofNat 64 (8 * msg.length))

/-! ## The schedule of a block (R161 to R163) -/

/-- The bytes of block `blk` (R161). -/
def blockBytes (pm : List Byte) (blk : Nat) : List Byte := (pm.drop (64 * blk)).take 64

/-- The first `n` big-endian words of a byte sequence (R162). -/
def loadWords (n : Nat) (b : List Byte) : List Word :=
  match n with
  | 0 => []
  | n + 1 => be32 (b.getD 0 0) (b.getD 1 0) (b.getD 2 0) (b.getD 3 0) :: loadWords n (b.drop 4)

/-- `W[i]` from the words `W[0..i-1]` before it (R163); `w` is in index order and `i` is its length. -/
def nextWord (w : List Word) : Word :=
  ssig1 (w.getD (w.length - 2) 0) + w.getD (w.length - 7) 0 + ssig0 (w.getD (w.length - 15) 0) + w.getD (w.length - 16) 0

/-- `n` further words of the schedule, in increasing order (R163). -/
def expandWords (n : Nat) (w : List Word) : List Word :=
  match n with
  | 0 => w
  | n + 1 => expandWords n (w ++ [nextWord w])

/-- `W[0..63]` of a block (R162, R163). -/
def schedule (b : List Byte) : List Word := expandWords 48 (loadWords 16 b)

theorem loadWords_length (n : Nat) (b : List Byte) : (loadWords n b).length = n := by
  induction n generalizing b with
  | zero => rfl
  | succ n ih => simp [loadWords, ih]

theorem expandWords_length (n : Nat) (w : List Word) : (expandWords n w).length = w.length + n := by
  induction n generalizing w with
  | zero => rfl
  | succ n ih => simp [expandWords, ih]; omega

theorem schedule_length (b : List Byte) : (schedule b).length = 64 := by
  simp [schedule, expandWords_length, loadWords_length]

/-- The schedule as the register file `W`. -/
def scheduleVec (b : List Byte) : Vector Word 64 := ⟨(schedule b).toArray, by simp [schedule_length]⟩

/-! ## Compression (R164 to R166) -/

/-- The start of a block (R162 to R164): the schedule of block `blk`, the working registers from `H`, round 0. -/
def ShaRegs.loadBlock (r : ShaRegs) : ShaRegs :=
  { r with
    w := scheduleVec (blockBytes r.pm r.blk)
    t := 0
    a := r.hh.w0
    b := r.hh.w1
    c := r.hh.w2
    d := r.hh.w3
    e := r.hh.w4
    f := r.hh.w5
    g := r.hh.w6
    h := r.hh.w7 }

/-- `T1` of the present round (R164). -/
def ShaRegs.nextT1 (r : ShaRegs) : Word :=
  r.h + bsig1 r.e + ch r.e r.f r.g + roundConstants.getD r.t 0 + r.w.toList.getD r.t 0

/-- `T2` of the present round (R164). -/
def ShaRegs.nextT2 (r : ShaRegs) : Word := bsig0 r.a + maj r.a r.b r.c

/-- One round (R164): the eight registers are updated in parallel, and the round counter advances. -/
def ShaRegs.round (r : ShaRegs) : ShaRegs :=
  { r with
    t1 := r.nextT1
    t2 := r.nextT2
    h := r.g
    g := r.f
    f := r.e
    e := r.d + r.nextT1
    d := r.c
    c := r.b
    b := r.a
    a := r.nextT1 + r.nextT2
    t := r.t + 1 }

/-- `n` rounds. -/
def ShaRegs.rounds (n : Nat) (r : ShaRegs) : ShaRegs :=
  match n with
  | 0 => r
  | n + 1 => ShaRegs.rounds n r.round

/-- The end of a block (R165): the working registers are added into `H`, and the block counter advances. -/
def ShaRegs.accumulate (r : ShaRegs) : ShaRegs :=
  { r with
    hh := ⟨r.hh.w0 + r.a, r.hh.w1 + r.b, r.hh.w2 + r.c, r.hh.w3 + r.d, r.hh.w4 + r.e, r.hh.w5 + r.f, r.hh.w6 + r.g, r.hh.w7 + r.h⟩
    blk := r.blk + 1 }

/-- One block: load, 64 rounds, accumulate (R166). -/
def ShaRegs.block (r : ShaRegs) : ShaRegs := (ShaRegs.rounds 64 r.loadBlock).accumulate

/-- `n` blocks, in increasing order (R161). -/
def ShaRegs.blocks (n : Nat) (r : ShaRegs) : ShaRegs :=
  match n with
  | 0 => r
  | n + 1 => ShaRegs.blocks n r.block

/-- The start of a digest (R166): `PM <- Pad(msg)`, `H <- H0`, block 0. -/
def ShaRegs.start (msg : List Byte) (r : ShaRegs) : ShaRegs := { r with pm := pad msg, hh := initialChain, blk := 0 }

/-- A whole digest on the working storage (R166). -/
def ShaRegs.run (msg : List Byte) (r : ShaRegs) : ShaRegs := ShaRegs.blocks ((pad msg).length / 64) (r.start msg)

/-- `Sha(msg)` (R166): the final `H[0..7]`. What the working storage held before does not matter (R31). -/
def sha (msg : List Byte) : Chain := (ShaRegs.initial.run msg).hh

/-! ## The text (R167) -/

/-- `hexdigit(v)` (R167): `0` to `9`, then lowercase `a` to `f`, as ASCII. -/
def hexDigit (v : BitVec 4) : Byte := if v.toNat < 10 then 0x30 + v.setWidth 8 else 0x61 + v.setWidth 8 - 10

/-- The eight characters of a word, most significant digit first (R167). -/
def hexWord (d : Word) : List Byte :=
  [hexDigit (d.extractLsb' 28 4), hexDigit (d.extractLsb' 24 4), hexDigit (d.extractLsb' 20 4), hexDigit (d.extractLsb' 16 4),
    hexDigit (d.extractLsb' 12 4), hexDigit (d.extractLsb' 8 4), hexDigit (d.extractLsb' 4 4), hexDigit (d.extractLsb' 0 4)]

/-- `HexRender(D)` (R167): 64 characters. -/
def hexRender (d : Chain) : List Byte := d.toList.flatMap hexWord

theorem hexRender_length (d : Chain) : (hexRender d).length = 64 := by
  simp [hexRender, Chain.toList, hexWord]

/-- `HexRender(D)` as the contents of `HEX`. -/
def hexText (d : Chain) : Vector Byte 64 := ⟨(hexRender d).toArray, by simp [hexRender_length]⟩

/-- `Digest(msg)` (R150) on its domain (R151): no value at 2^61 bytes and beyond (U5). -/
def digestText (msg : List Byte) : Option (List Byte) :=
  if msg.length < 2 ^ 61 then some (hexRender (sha msg)) else none

/-! ## The shared engine (R169) and DIGEST (R168) -/

/-- What `DIGEST`, `EMIT.A` and `EMIT.B` do alike (R169): digest a message and write `DOUT` and `HEX`. -/
def State.digestInto (s : State) (msg : List Byte) : State :=
  { s with
    msg := msg
    sha := s.sha.run msg
    dout := (s.sha.run msg).hh
    hex := hexText (s.sha.run msg).hh }

/-- `DIGEST` (R168). It has no gate and no fault. -/
def execDigest (s : State) : Host.Outcome State Fault Refusal :=
  .next { s.digestInto s.input with status := s.status.setDv }

end Sys2Proof.Machine
end

