-- ==== Sys2Proof/Machine/Token.lean ====
section
/-! DEFINITION. TokenEmitter: the decimal rendering (R181), the template (R182), the token functions (R183), `EMIT.A` (R184) and `EMIT.B` (R185). -/

namespace Sys2Proof.Machine

/-! ## Decimal rendering (R181) -/

/-- The number of decimal digits of `v`, at least 1; `fuel` bounds the count. -/
def decimalDigits (fuel v : Nat) : Nat :=
  match fuel with
  | 0 => 1
  | fuel + 1 => if v < 10 then 1 else decimalDigits fuel (v / 10) + 1

/-- The last `d` decimal digits of `v` as ASCII, most significant first: character `k` is `0x30 + (v / 10^(d-1-k)) mod 10` (R181). -/
def digitsFrom (d v : Nat) : List Byte :=
  match d with
  | 0 => []
  | d + 1 => (0x30 + BitVec.ofNat 8 (v / 10 ^ d % 10)) :: digitsFrom d v

/-- `DecRender(v)` (R181): no leading zeros, no sign; `DecRender(0)` is the one character `0`. -/
def decRender (v : Word) : List Byte := digitsFrom (decimalDigits 9 v.toNat) v.toNat

/-- `DEC[0..]` after the digits are written over what it held. -/
def overlay (old : Vector Byte 10) (l : List Byte) : Vector Byte 10 :=
  ⟨((l ++ old.toList.drop l.length).take 10).toArray, by simp; omega⟩

/-! ## The template (R182) -/

/-- `kctf-jr` and the opening brace, in ASCII (R15, R182). -/
def tokenHead : List Byte := [0x6B, 0x63, 0x74, 0x66, 0x2D, 0x6A, 0x72, 0x7B]

/-- `TokenWrap(X)` (R182): the head, the hex text, the closing brace. -/
def tokenWrap (x : List Byte) : List Byte := tokenHead ++ x ++ [0x7D]

/-- `TokenWrap(HexRender(D))` as the contents of `TOKEN`: 73 bytes. -/
def tokenText (d : Chain) : Vector Byte 73 :=
  ⟨(tokenWrap (hexRender d)).toArray, by simp [tokenWrap, tokenHead, hexRender_length]⟩

/-- `TokenA(v)` (R183). The message has at most 10 bytes, inside the digest's domain. -/
def tokenA (v : Word) : List Byte := tokenWrap (hexRender (sha (decRender v)))

/-- `TokenB(s)` (R183), where the digest has a value (R151). -/
def tokenB (l : List Byte) : Option (List Byte) := (digestText l).map tokenWrap

/-! ## EMIT -/

/-- What `EMIT.A` and `EMIT.B` do alike once the gate is passed: digest the message, write `DOUT`, `HEX` and `TOKEN`, set `DV` and `TV`. -/
def State.emitFrom (s : State) (msg : List Byte) : State :=
  { s.digestInto msg with
    token := tokenText (s.sha.run msg).hh
    status := s.status.setToken }

/-- `EMIT.A` (R184): the gate, then the digest of the decimal rendering of `CAND`. -/
def execEmitA (s : State) : Host.Outcome State Fault Refusal :=
  if s.status.accepted false then
    .next { s.emitFrom (decRender s.cand) with dec := overlay s.dec (decRender s.cand), dlen := (decRender s.cand).length }
  else .next (raiseFault .notAccepted s)

/-- `EMIT.B` (R185): the gate, then the digest of the input bytes as they are. -/
def execEmitB (s : State) : Host.Outcome State Fault Refusal :=
  if s.status.accepted true then .next (s.emitFrom s.input) else .next (raiseFault .notAccepted s)

end Sys2Proof.Machine
end

