-- ==== Sys2Proof/Machine/Dispatch.lean ====
section
/-! DEFINITION. `exec`: one arm per instruction, each one direct call of its meaning. -/

namespace Sys2Proof.Machine

def exec (i : Instr) (s : State) : Host.Outcome State Fault Refusal :=
  match i with
  -- the commands (R73)
  | .derive => Sys2Proof.Machine.execDerive s
  | .verifyA => Sys2Proof.Machine.execVerifyA s
  | .verifyB => Sys2Proof.Machine.execVerifyB s
  | .emitA => Sys2Proof.Machine.execEmitA s
  | .emitB => Sys2Proof.Machine.execEmitB s
  | .digest => Sys2Proof.Machine.execDigest s
  -- the micro-ops (R76)
  | .mnop => Sys2Proof.Machine.execMnop s
  | .rotl n => Sys2Proof.Machine.execRotl n s
  | .rotr n => Sys2Proof.Machine.execRotr n s
  | .swaph => Sys2Proof.Machine.execSwaph s
  | .bswap => Sys2Proof.Machine.execBswap s
  | .swapg m sh => Sys2Proof.Machine.execSwapg m sh s
  | .xorc c => Sys2Proof.Machine.execXorc c s
  | .mulc c => Sys2Proof.Machine.execMulc c s

end Sys2Proof.Machine
end

