-- ==== Sys2Proof/Machine/Bus.lean ====
section
/-! DEFINITION. What a host event does: the order of checks within a write (R196), command issue (R71), reads (R28, R59), Reset; and what a micro-op word in the mixer does. -/

namespace Sys2Proof.Machine

/-- Command issue (R71): an accepted write of `w` to `CMD`. The command runs to its end inside this event (R57); an illegal word
raises `IllegalCommand` and has no other effect (R74). -/
def issue (w : Word) (s : State) : Host.Outcome State Fault Refusal :=
  match decode (.command w) with
  | some i => exec i s
  | none => .next (raiseFault .illegalCommand s)

/-- A write to `ILEN` (R191, R196): a value beyond `IBUF_MAX` faults and leaves `ILEN` as it was. -/
def writeIlen (v : Word) (s : State) : State :=
  if s.cfg.ibufMax < v.toNat then raiseFault .lengthOverflow s else s.storeIlen v

/-- A write of a datum to what its access names, `ERR` being 0: steps 2 to 5 of R196. A read-only register or array, an undefined
offset and a misfit access are `BadAccess`. -/
def writeTarget (t : Target) (d : Datum) (s : State) : Host.Outcome State Fault Refusal :=
  match t, d with
  | .cmd, .word w => issue w s
  | .ilen, .word v => .next (writeIlen v s)
  | .cand, .word v => .next (s.storeCand v)
  | .ibuf i, .byte b => .next (s.storeIbuf i b)
  | _, _ => .next (raiseFault .badAccess s)

/-- `HostWrite` (R196): ignored while `ERR` = 1 (R194), before any other check. -/
def hostWrite (offset : Nat) (d : Datum) (s : State) : Host.Outcome State Fault Refusal :=
  if s.status.err then .next s else writeTarget (locate s.cfg.ibufMax offset d.width) d s

/-- `HostRead` (R27, R28, R194): the value goes to the host, the engine is not changed, and no read faults. -/
def hostRead (offset : Nat) (w : Width) (s : State) : State :=
  match s.readTarget (locate s.cfg.ibufMax offset w) with
  | some v => { s with reads := v :: s.reads }
  | none => { s with reads := unspecifiedRead w s.draws :: s.reads, draws := s.draws + 1 }

/-- One host event (R16). -/
def hostEvent (e : HostEvent) (s : State) : Host.Outcome State Fault Refusal :=
  match e with
  | .reset => .next (resetEngine s)
  | .write offset d => hostWrite offset d s
  | .read offset w => .next (hostRead offset w s)

/-- A micro-op word in the mixer as a step of its own (R110; log 8): decoded as format M and executed. -/
def runMicroWord (u : MicroWord) (s : State) : Host.Outcome State Fault Refusal :=
  match decode (.micro u) with
  | some i => exec i s
  | none => .refused .invalidMicroOp

/-- The next step. A micro-op word that stands in the mixer goes first; else the oldest host event; else the engine waits (R221). -/
def stepOnce (s : State) : Host.Outcome State Fault Refusal :=
  match s.uop with
  | some u => runMicroWord u { s with uop := none }
  | none =>
    match s.host with
    | [] => .next s
    | e :: rest => hostEvent e { s with host := rest }

/-- A 32-bit word is put where the next step takes its command from: the front of the host's events, as a write to `CMD` at offset
0x000 (R21, R71). A 64-bit word is put into the mixer. The bits of any other size are no instruction of this hardware. -/
def placeWord (s : State) (nbits w : Nat) : State :=
  if nbits = 32 then { s with uop := none, host := .write 0x000 (.word (BitVec.ofNat 32 w)) :: s.host }
  else if nbits = 64 then { s with uop := some (BitVec.ofNat 64 w) }
  else s

end Sys2Proof.Machine
end

