-- ==== Sys2Proof/Safety.lean ====
section
/-! DEFINITION. What the claims are stated in: when a run went wrong (R230), the invariants of R33, the transient storage the host cannot see (R29, R31), and the states a run reaches. -/

namespace Sys2Proof.Machine

/-- The run went wrong (R230): `ERR` = 1 in its end state. -/
def State.wentWrong (s : State) : Bool := s.status.err

/-! ## The invariants (R33), by their numbers -/

/-- R33.1: `ILEN` ≤ `IBUF_MAX`. -/
def IlenInRange (s : State) : Prop := s.ilen.toNat ≤ s.cfg.ibufMax

/-- R33.2: without a valid verdict `VERDICT` and `VPOL` are 0. -/
def VerdictClear (s : State) : Prop := s.status.vv = false → s.status.verdict = false ∧ s.status.vpol = false

/-- R33.3: a valid verdict implies a valid ReferenceSet. -/
def VerdictNeedsRef (s : State) : Prop := s.status.vv = true → s.status.refv = true

/-- R33.4: a valid verdict of Policy XOR-Equality is that of the present `CAND` (R133). -/
def VerdictOfCand (s : State) : Prop :=
  s.status.vv = true → s.status.vpol = false → s.status.verdict = verifyA s.cfg s.cand

/-- R33.5: a valid verdict of Policy Array-Equality is that of the present input bytes (R137). -/
def VerdictOfInput (s : State) : Prop :=
  s.status.vv = true → s.status.vpol = true → s.status.verdict = verifyB s.cfg s.input

/-- R33.6: a valid ReferenceSet holds the values of R130. -/
def RefsDerived (s : State) : Prop :=
  s.status.refv = true → s.key = refKey s.cfg ∧ s.c1 = refC1 s.cfg ∧ s.c2 = refC2 s.cfg

/-- R33.7: a valid digest text is that of `DOUT` (R167). -/
def HexOfDout (s : State) : Prop := s.status.dv = true → s.hex.toList = hexRender s.dout

/-- A character in `0-9a-f`. -/
def isHexChar (b : Byte) : Bool :=
  (decide (0x30 ≤ b.toNat) && decide (b.toNat ≤ 0x39)) || (decide (0x61 ≤ b.toNat) && decide (b.toNat ≤ 0x66))

/-- The token template (R182, R186): the head, 64 characters each in `0-9a-f`, the closing brace. -/
def isToken (l : List Byte) : Bool :=
  l.length == 73 && l.take 8 == tokenHead && ((l.drop 8).take 64).all isHexChar && l.drop 72 == [0x7D]

/-- R33.8: a valid token has the template's form. -/
def TokenFormed (s : State) : Prop := s.status.tv = true → isToken s.token.toList = true

/-- R33.9, first half: without a fault `CAUSE` is 0. -/
def CauseClear (s : State) : Prop := s.status.err = false → s.status.cause = .none

/-- The written cells of `IBUF` are in canonical form and lie inside the buffer (the model's own form of R21's row for `IBUF`). -/
def CellsCanonical (s : State) : Prop := Memory.wf s.ibuf = true ∧ Memory.below s.ibuf s.cfg.ibufMax = true

/-- The invariants of R33, and the canonical form of the written cells. -/
structure Inv (s : State) : Prop where
  ilen : IlenInRange s
  clear : VerdictClear s
  needsRef : VerdictNeedsRef s
  ofCand : VerdictOfCand s
  ofInput : VerdictOfInput s
  refs : RefsDerived s
  hexText : HexOfDout s
  token : TokenFormed s
  cause : CauseClear s
  cells : CellsCanonical s

/-! ## What the host cannot see (R29, R31) -/

/-- The state with its internal transient storage (R31) wiped: two states with the same wiped form differ in that storage only. -/
def State.wiped (s : State) : State :=
  { s with
    mixer := { mx := 0, slot := 0 }
    xt := Vector.replicate 16 0
    idx := 0
    msg := []
    dec := Vector.replicate 10 0
    dlen := 0
    sha := ShaRegs.initial }

/-- Every host-visible register and array (R21), the constants, and the counters behind unspecified contents are as before. -/
def SameRegisters (s t : State) : Prop :=
  t.cfg = s.cfg ∧ t.status = s.status ∧ t.cand = s.cand ∧ t.ilen = s.ilen ∧ t.key = s.key ∧ t.c1 = s.c1 ∧ t.c2 = s.c2 ∧
    t.dout = s.dout ∧ t.hex = s.hex ∧ t.token = s.token ∧ t.ibuf = s.ibuf ∧ t.resets = s.resets

/-! ## Events and runs (R16, R230) -/

/-- The next step carries out the host event `e`, and `rest` is what comes after it. -/
def NextEvent (s : State) (e : HostEvent) (rest : List HostEvent) : Prop := s.uop = none ∧ s.host = e :: rest

/-- The next step is a `Reset`. -/
def ResetIsNext (s : State) : Prop := ∃ rest, NextEvent s .reset rest

/-- The next step is an accepted write of the command word `w` to `CMD` (R71). -/
def IssueIsNext (s : State) (w : Word) : Prop := s.status.err = false ∧ ∃ rest, NextEvent s (.write 0x000 (.word w)) rest

/-- The states of a run (R230): `Reset` of a machine with any configuration, and then any sequence of host events. -/
inductive Reachable : State → Prop where
  | start (c : Cfg) (n : Nat) (script : List HostEvent) : Reachable { State.afterReset c n with host := script }
  | next (s t : State) : Reachable s → step s = .next t → Reachable t

end Sys2Proof.Machine
end

