-- ==== Sys2Proof/Certificates/Slice0/Obligations.lean ====
section
/-! DEFINITION. The statements for the provers. Each docstring names the rules of spec/ it formalises; where a statement rests on a choice of the model it says so and names the log entry. -/

open Sys2Proof Sys2Proof.Machine

/-! ## Encoding (R70 to R80) -/

/-- R79: decoding the word of a well-formed instruction gives it back, two well-formed instructions never share a word, and micro-op
decode gives a well-formed micro-op or none. Commands are included (R73). -/
def Obligations.DecodeInvertsEncode : Prop :=
  (∀ i : Instr, i.wf = true → decode (encode i) = some i) ∧
  (∀ i j : Instr, i.wf = true → j.wf = true → encode i = encode j → i = j) ∧
  (∀ u : MicroWord, decodeMicro u = none ∨ ∃ i, decodeMicro u = some i ∧ i.isCommand = false ∧ i.wf = true)

/-- R73, R76: no two words spell one instruction, in either format: what is decoded encodes to the word it came from. -/
def Obligations.EncodeInvertsDecode : Prop :=
  (∀ (u : MicroWord) (i : Instr), decodeMicro u = some i → encode i = .micro u) ∧
  (∀ (w : Word) (i : Instr), decodeCommand w = some i → encode i = .command w)

/-- R76: a word spells a micro-op exactly when its masked bits are the row's match, its free fields are the operands, and the field
constraint holds. -/
def Obligations.MicroDecodeFollowsTable : Prop :=
  ∀ (u : MicroWord) (i : Instr), i.isCommand = false →
    (decodeMicro u = some i ↔ u &&& i.tableRow.2 = i.tableRow.1 ∧ i.operandsAre u = true ∧ i.wf = true)

/-- R74: the illegal command words are all but six, and writing one to `CMD` raises `IllegalCommand` and does nothing else. -/
def Obligations.IllegalCommandWordsFault : Prop :=
  ∀ (w : Word) (s : State), s.status.err = false →
    (decodeCommand w = none ↔ w ∉ ([0x01, 0x02, 0x12, 0x03, 0x13, 0x04] : List Word)) ∧
    (w ∉ ([0x01, 0x02, 0x12, 0x03, 0x13, 0x04] : List Word) →
      hostWrite 0x000 (.word w) s = .next { s with status := { s.status with err := true, cause := .illegalCommand } })

/-- R78: exactly these micro-op words are invalid; a stage with an invalid word, or with `MNOP` in slot 0 or 1, is ill formed; no
configuration is built from it; no step changes the ROM. That `exec` refuses an operand that violates its constraint, by the name
`invalidMicroOp`, is the model's own (log 11): R78 says only that no machine is built from such a word. -/
def Obligations.ReservedMicroWordsRejected : Prop :=
  (∀ u : MicroWord, decodeMicro u = none ↔
    (8 ≤ (uMop u).toNat ∨ uZ1 u ≠ 0 ∨ uZ2 u ≠ 0 ∨
      ((uMop u = 1 ∨ uMop u = 2 ∨ uMop u = 5) ∧ uAmt u = 0) ∨
      ((uMop u = 0 ∨ uMop u = 3 ∨ uMop u = 4) ∧ (uAmt u ≠ 0 ∨ uImm u ≠ 0)) ∨
      ((uMop u = 6 ∨ uMop u = 7) ∧ uAmt u ≠ 0) ∨
      ((uMop u = 1 ∨ uMop u = 2) ∧ uImm u ≠ 0) ∨
      (uMop u = 7 ∧ (uImm u).getLsbD 0 = false) ∨
      (uMop u = 5 ∧ (uImm u = 0 ∨ uImm u >>> (32 - (uAmt u).toNat) ≠ 0 ∨ uImm u &&& (uImm u <<< (uAmt u).toNat) ≠ 0)))) ∧
  (∀ r : StageRom, r.ok = false ↔
    (decodeMicro r.w0 = none ∨ decodeMicro r.w1 = none ∨ decodeMicro r.w2 = none ∨ r.w0 = 0 ∨ r.w1 = 0)) ∧
  (∀ d : CfgData, d.rom1.ok = false ∨ d.rom2.ok = false ∨ d.rom3.ok = false → Cfg.ofData d = none) ∧
  (∀ s t : State, step s = .next t → t.cfg = s.cfg) ∧
  (∀ (i : Instr) (s : State), i.wf = false → exec i s = .refused .invalidMicroOp)

/-- R73, R76: words written out bit by bit from the encodings decode to what they stand for. A sanity check of the decoder. -/
def Obligations.WrittenOutWordsDecode : Prop :=
  decodeTableWord 32 0b00000000000000000000000000000001 = some .derive ∧
  decodeTableWord 32 0b00000000000000000000000000010010 = some .verifyB ∧
  decodeTableWord 32 0b00000000000000000000000000000011 = some .emitA ∧
  decodeTableWord 64 0b0000000100001101000000000000000000000000000000000000000000000000 = some (.rotl 13) ∧
  decodeTableWord 64 0b0000010100000100000000000000000000001111000011110000111100001111 = some (.swapg 0x0F0F0F0F 4) ∧
  decodeTableWord 64 0b0000011100000000000000000000000010011110001101110111100110110001 = some (.mulc 0x9E3779B1)

/-! ## The mixer (R100 to R114) -/

/-- R110: a stage applies its primitives in list order, the first first; the ROM of a list is that of R80. -/
def Obligations.StageAppliesListInOrder : Prop :=
  ∀ (p0 p1 p2 : Instr) (r : StageRom) (x : Word),
    (StageRom.ofList [p0, p1] = some r →
      r.ok = true ∧ r = ⟨encodeMicro p0, encodeMicro p1, 0⟩ ∧ stageEval r x = microOp p1 (microOp p0 x)) ∧
    (StageRom.ofList [p0, p1, p2] = some r →
      r.ok = true ∧ r = ⟨encodeMicro p0, encodeMicro p1, encodeMicro p2⟩ ∧
        stageEval r x = microOp p2 (microOp p1 (microOp p0 x)))

/-- R101: `MNOP` is the identity and changes nothing; it is legal in slot 2 only. -/
def Obligations.MnopIsIdentity : Prop :=
  (∀ s : State, exec .mnop s = .next s) ∧ encode .mnop = .micro 0 ∧ decodeMicro 0 = some .mnop ∧
  (∀ u v : MicroWord, StageRom.ok ⟨0, u, v⟩ = false ∧ StageRom.ok ⟨u, 0, v⟩ = false)

/-- R102: `ROTL n` moves bit `k` to bit `(k + n) mod 32`; it equals `ROTR` by `32 - n`, `ROTR n` undoes it, and it changes `MX` alone.
The word of a decoded `ROTL` has `MOP` 0x01 and the amount in `AMT`, and `ROTL 0` has none. -/
def Obligations.RotlMovesBitsUp : Prop :=
  (∀ (n : BitVec 5) (s : State), n ≠ 0 → ∃ y : Word,
    exec (.rotl n) s = .next { s with mixer := { s.mixer with mx := y } } ∧
    (∀ k, k < 32 → y.getLsbD ((k + n.toNat) % 32) = s.mixer.mx.getLsbD k) ∧
    y = rotr s.mixer.mx (32 - n.toNat) ∧ rotrFn n y = s.mixer.mx ∧ rotlFn n (rotrFn n s.mixer.mx) = s.mixer.mx) ∧
  (∀ (u : MicroWord) (n : BitVec 5), decodeMicro u = some (.rotl n) → uMop u = 0x01 ∧ uAmt u = n ∧ n ≠ 0)

/-- R103: `ROTR n` brings bit `(k + n) mod 32` to bit `k`; `ROTL n` undoes it, and it changes `MX` alone. The word of a
decoded `ROTR` has `MOP` 0x02 and the amount in `AMT`, and `ROTR 0` has none. -/
def Obligations.RotrMovesBitsDown : Prop :=
  (∀ (n : BitVec 5) (s : State), n ≠ 0 → ∃ y : Word,
    exec (.rotr n) s = .next { s with mixer := { s.mixer with mx := y } } ∧
    (∀ k, k < 32 → y.getLsbD k = s.mixer.mx.getLsbD ((k + n.toNat) % 32)) ∧
    y = rotl s.mixer.mx (32 - n.toNat) ∧ rotlFn n y = s.mixer.mx ∧ rotrFn n (rotlFn n s.mixer.mx) = s.mixer.mx) ∧
  (∀ (u : MicroWord) (n : BitVec 5), decodeMicro u = some (.rotr n) → uMop u = 0x02 ∧ uAmt u = n ∧ n ≠ 0)

/-- R105: `SWAPH` exchanges the halves, is an involution, equals `ROTL 16`, `ROTR 16` and `SWAPG 0x0000FFFF, 16`, and changes `MX` alone. -/
def Obligations.SwaphExchangesHalves : Prop :=
  encode .swaph = .micro 0x0300000000000000 ∧ decodeMicro 0x0300000000000000 = some .swaph ∧ ∀ s : State, ∃ y : Word,
    exec .swaph s = .next { s with mixer := { s.mixer with mx := y } } ∧
    y.extractLsb' 16 16 = s.mixer.mx.extractLsb' 0 16 ∧ y.extractLsb' 0 16 = s.mixer.mx.extractLsb' 16 16 ∧
    swaphFn y = s.mixer.mx ∧ y = rotlFn 16 s.mixer.mx ∧ y = rotrFn 16 s.mixer.mx ∧ y = swapgFn 0x0000FFFF 16 s.mixer.mx

/-- R106: `BSWAP` reverses the bytes, is an involution, equals `SWAPG 0x00FF00FF, 8` and then `SWAPH`, and changes `MX` alone. -/
def Obligations.BswapReversesBytes : Prop :=
  encode .bswap = .micro 0x0400000000000000 ∧ decodeMicro 0x0400000000000000 = some .bswap ∧ ∀ s : State, ∃ y : Word,
    exec .bswap s = .next { s with mixer := { s.mixer with mx := y } } ∧
    y.extractLsb' 24 8 = s.mixer.mx.extractLsb' 0 8 ∧ y.extractLsb' 16 8 = s.mixer.mx.extractLsb' 8 8 ∧
    y.extractLsb' 8 8 = s.mixer.mx.extractLsb' 16 8 ∧ y.extractLsb' 0 8 = s.mixer.mx.extractLsb' 24 8 ∧
    bswapFn y = s.mixer.mx ∧ y = swaphFn (swapgFn 0x00FF00FF 8 s.mixer.mx)

/-- R107: under the field constraint `SWAPG m, s` exchanges each bit `m` selects with the bit `s` above it, leaves the bits neither
mask selects, is an involution, and changes `MX` alone; a decoded `SWAPG` meets the constraint and has its operands in `IMM` and `AMT`. -/
def Obligations.SwapgExchangesSelectedBits : Prop :=
  (∀ (u : MicroWord) (m : Word) (sh : BitVec 5), decodeMicro u = some (.swapg m sh) →
    uMop u = 0x05 ∧ uImm u = m ∧ uAmt u = sh ∧ sh ≠ 0 ∧ m ≠ 0 ∧ m >>> (32 - sh.toNat) = 0 ∧ m &&& (m <<< sh.toNat) = 0) ∧
  ∀ (m : Word) (sh : BitVec 5) (s : State),
    sh ≠ 0 → m ≠ 0 → m >>> (32 - sh.toNat) = 0 → m &&& (m <<< sh.toNat) = 0 → ∃ y : Word,
      exec (.swapg m sh) s = .next { s with mixer := { s.mixer with mx := y } } ∧
      (∀ k, m.getLsbD k = true → k + sh.toNat < 32 ∧ y.getLsbD (k + sh.toNat) = s.mixer.mx.getLsbD k ∧
        y.getLsbD k = s.mixer.mx.getLsbD (k + sh.toNat)) ∧
      (∀ k, m.getLsbD k = false → (m <<< sh.toNat).getLsbD k = false → y.getLsbD k = s.mixer.mx.getLsbD k) ∧
      swapgFn m sh y = s.mixer.mx

/-- R108: `XORC c` is `x ^ c`, an involution, the identity for 0, and changes `MX` alone. -/
def Obligations.XorcIsInvolution : Prop :=
  (∀ (u : MicroWord) (c : Word), decodeMicro u = some (.xorc c) → uMop u = 0x06 ∧ uImm u = c) ∧
  ∀ (c : Word) (s : State),
    exec (.xorc c) s = .next { s with mixer := { s.mixer with mx := s.mixer.mx ^^^ c } } ∧
    xorcFn c (xorcFn c s.mixer.mx) = s.mixer.mx ∧ xorcFn 0 s.mixer.mx = s.mixer.mx

/-- R109: for odd `c`, `MULC c` gives the product modulo 2^32, has an inverse of its own kind, and changes `MX` alone; an even `c` is not
encodable. -/
def Obligations.MulcIsInvertible : Prop :=
  (∀ (c : Word) (s : State), c.getLsbD 0 = true →
    (∃ y : Word, exec (.mulc c) s = .next { s with mixer := { s.mixer with mx := y } } ∧
      y.toNat = s.mixer.mx.toNat * c.toNat % 2 ^ 32) ∧
    (∃ d : Word, d.getLsbD 0 = true ∧ ∀ x : Word, mulcFn d (mulcFn c x) = x ∧ mulcFn c (mulcFn d x) = x)) ∧
  (∀ (u : MicroWord) (c : Word), decodeMicro u = some (.mulc c) → uMop u = 0x07 ∧ uImm u = c ∧ c.getLsbD 0 = true)

/-- R113: every well-formed micro-op is a bijection on words, and so are the stages and the pipeline of every configuration. -/
def Obligations.StagesAreBijections : Prop :=
  (∀ i : Instr, i.wf = true → i.isCommand = false → Function.Bijective (microOp i)) ∧
  (∀ c : Cfg, Function.Bijective (stage1 c) ∧ Function.Bijective (stage2 c) ∧ Function.Bijective (stage3 c) ∧
    Function.Bijective (pipeline c))

/-- R112: the bit equations of `BSTAGE`, and that it is a true 8-bit rotate where bits 14:8 of `u` are 0. -/
def Obligations.BstageBitEquations : Prop :=
  ∀ (c : Cfg) (b : Byte) (i : Nat) (u : Word), u = (b.setWidth 32 * c.mulb + c.addb) ^^^ BitVec.ofNat 32 (3 * i + 5) →
    (bstage c b i).getLsbD 0 = u.getLsbD 7 ∧
    (∀ k, 1 ≤ k → k < 8 → (bstage c b i).getLsbD k = (u.getLsbD (k - 1) || u.getLsbD (k + 7))) ∧
    (u.extractLsb' 8 7 = 0 → bstage c b i = (u.setWidth 8).rotateLeft 1)

/-! ## KeyDeriver and Verifier (R130 to R140) -/

/-- R130, R131: `DERIVE` writes `KEY`, `C1`, `C2` and `REFV`, nothing else but the mixer's transient storage; issued again it changes
nothing; it is ignored while `ERR` = 1. -/
def Obligations.DeriveWritesReferenceSet : Prop :=
  decodeCommand 0x00000001 = some .derive ∧ ∀ s : State, ∃ (m : Mixer) (t : State),
    t = { s with
      key := stage1 s.cfg s.cfg.ka1 ^^^ stage2 s.cfg s.cfg.ka2 ^^^ stage3 s.cfg s.cfg.ka3 ^^^ s.cfg.ka4
      c1 := stage2 s.cfg (stage1 s.cfg s.cfg.seed)
      c2 := stage3 s.cfg (stage2 s.cfg (stage1 s.cfg s.cfg.seed)) ^^^
        (stage1 s.cfg s.cfg.ka1 ^^^ stage2 s.cfg s.cfg.ka2 ^^^ stage3 s.cfg s.cfg.ka3 ^^^ s.cfg.ka4)
      mixer := m
      status := { s.status with refv := true } } ∧
    exec .derive s = .next t ∧ exec .derive t = .next t ∧
    (s.status.err = true → hostWrite 0x000 (.word 0x00000001) s = .next s)

/-- R132: once valid, the ReferenceSet never changes but by `Reset`; without it only an issued `DERIVE` makes it valid. The premise is
R33.6. -/
def Obligations.ReferenceSetIsWriteOnce : Prop :=
  ∀ s t : State, RefsDerived s → step s = .next t →
    (s.status.refv = true → ¬ ResetIsNext s →
      t.status.refv = true ∧ t.key = s.key ∧ t.c1 = s.c1 ∧ t.c2 = s.c2) ∧
    (s.status.refv = false → t.status.refv = true → IssueIsNext s 0x00000001) ∧
    (ResetIsNext s → t.status.refv = false)

/-- R134: `VERIFY.A` behind its gate writes the verdict, `VPOL` = 0 and `VV`, and nothing else but the mixer's transient storage; without
`REFV` it raises `NotDerived`. -/
def Obligations.VerifyAWritesVerdict : Prop :=
  decodeCommand 0x00000002 = some .verifyA ∧ ∀ s : State,
    (s.status.refv = true → ∃ m : Mixer,
      exec .verifyA s = .next
        { s with
          mixer := m
          status :=
            { s.status with
              vv := true
              vpol := false
              verdict := decide (stage3 s.cfg (stage2 s.cfg (stage1 s.cfg s.cand)) ^^^ s.key = s.c1 ^^^ s.c2) } }) ∧
    (s.status.refv = false →
      exec .verifyA s = .next { s with status := { s.status with err := true, cause := .notDerived } })

/-- R135: the key cancels, exactly one word is accepted, and it is the seed exactly when `C1` is 0. -/
def Obligations.ExactlyOneCandidateAccepted : Prop :=
  (∀ (c : Cfg) (x : Word), verifyA c x = true ↔ pipeline c x = refC1 c ^^^ stage3 c (refC1 c)) ∧
  (∀ c c' : Cfg, c.rom1 = c'.rom1 → c.rom2 = c'.rom2 → c.rom3 = c'.rom3 → c.seed = c'.seed →
    ∀ x : Word, verifyA c x = verifyA c' x) ∧
  (∀ c : Cfg, ∃ x : Word, verifyA c x = true ∧ (∀ y : Word, verifyA c y = true → y = x) ∧
    (x = c.seed ↔ stage3 c (refC1 c) = refC1 c ^^^ stage3 c (refC1 c)) ∧ (x = c.seed ↔ refC1 c = 0))

/-- R137: Policy Array-Equality rejects every length but 16 and else compares element by element. -/
def Obligations.ArrayPolicyComparesElements : Prop :=
  ∀ (c : Cfg) (l : List Byte),
    (l.length ≠ 16 → verifyB c l = false) ∧
    (∀ h : l.length = 16, verifyB c l = true ↔ ∀ i : Fin 16, bstage c (l[i.val]'(by omega)) i.val = tgtTable[i])

/-- R138: `VERIFY.B` behind its gate writes the verdict, `VPOL` = 1 and `VV`, and nothing else but transient storage; a wrong length is a
rejection that leaves the transient storage too; without `REFV` it raises `NotDerived`. -/
def Obligations.VerifyBWritesVerdict : Prop :=
  decodeCommand 0x00000012 = some .verifyB ∧ ∀ s : State,
    (s.status.refv = true → s.ilen = 16 → ∃ (x : Vector Byte 16) (n : Nat) (ok : Bool),
      exec .verifyB s = .next
        { s with xt := x, idx := n, status := { s.status with vv := true, vpol := true, verdict := ok } } ∧
      (ok = true ↔ ∀ i : Fin 16, bstage s.cfg (s.ibufByte i.val) i.val = tgtTable[i])) ∧
    (s.status.refv = true → s.ilen ≠ 16 →
      exec .verifyB s = .next { s with status := { s.status with vv := true, vpol := true, verdict := false } }) ∧
    (s.status.refv = false →
      exec .verifyB s = .next { s with status := { s.status with err := true, cause := .notDerived } })

/-- R139, laws 2 and 3: the verdict depends on `MULB` and `ADDB` modulo 2^15 only, and the source's scenario string is rejected whatever
they are. -/
def Obligations.ScenarioStringRejected : Prop :=
  (∀ (c c' : Cfg) (l : List Byte), c.mulb.setWidth 15 = c'.mulb.setWidth 15 → c.addb.setWidth 15 = c'.addb.setWidth 15 →
    verifyB c l = verifyB c' l) ∧
  (∀ c : Cfg, verifyB c [0x41, 0x42, 0x43, 0x44, 0x45, 0x46, 0x47, 0x48, 0x49, 0x4A, 0x4B, 0x4C, 0x4D, 0x4E, 0x4F, 0x50] = false)

/-- R140: issuing a verification again with nothing written between gives the same `STATUS`. -/
def Obligations.VerifyIsRepeatable : Prop :=
  ∀ (i : Instr) (s t : State), i = .verifyA ∨ i = .verifyB → exec i s = .next t →
    ∃ u : State, exec i t = .next u ∧ u.status = t.status

/-! ## DigestEngine (R150 to R169) -/

/-- R154 to R159: the six functions, bit by bit. -/
def Obligations.DigestFunctionsBitwise : Prop :=
  ∀ (x y z : Word) (k : Nat), k < 32 →
    (ch x y z).getLsbD k = (if x.getLsbD k then y.getLsbD k else z.getLsbD k) ∧
    (maj x y z).getLsbD k =
      ((x.getLsbD k && y.getLsbD k) || (x.getLsbD k && z.getLsbD k) || (y.getLsbD k && z.getLsbD k)) ∧
    (ssig0 x).getLsbD k =
      ((x.getLsbD ((k + 7) % 32) ^^ x.getLsbD ((k + 18) % 32)) ^^ (if k + 3 < 32 then x.getLsbD (k + 3) else false)) ∧
    (ssig1 x).getLsbD k =
      ((x.getLsbD ((k + 17) % 32) ^^ x.getLsbD ((k + 19) % 32)) ^^ (if k + 10 < 32 then x.getLsbD (k + 10) else false)) ∧
    (bsig0 x).getLsbD k = ((x.getLsbD ((k + 2) % 32) ^^ x.getLsbD ((k + 13) % 32)) ^^ x.getLsbD ((k + 22) % 32)) ∧
    (bsig1 x).getLsbD k = ((x.getLsbD ((k + 6) % 32) ^^ x.getLsbD ((k + 11) % 32)) ^^ x.getLsbD ((k + 25) % 32))

/-- R160: the padded message is the message, 0x80, the least number of zeros that brings the length to 56 modulo 64, and the bit length,
most significant byte first; it is `floor((n + 8) / 64) + 1` blocks long. -/
def Obligations.PaddingFillsBlocks : Prop :=
  ∀ msg : List Byte, msg.length < 2 ^ 61 → ∃ (z : Nat) (suffix : List Byte),
    pad msg = msg ++ [0x80] ++ List.replicate z 0 ++ suffix ∧
    (msg.length + 1 + z) % 64 = 56 ∧ (∀ z', (msg.length + 1 + z') % 64 = 56 → z ≤ z') ∧
    suffix.length = 8 ∧ (∀ k, k < 8 → (suffix.getD k 0).toNat = 8 * msg.length / 256 ^ (7 - k) % 256) ∧
    (pad msg).length = 64 * ((msg.length + 8) / 64 + 1)

/-- R162, R163: the schedule of a block: 16 big-endian words, then the recurrence. -/
def Obligations.ScheduleFollowsRecurrence : Prop :=
  ∀ b : List Byte, b.length = 64 →
    (schedule b).length = 64 ∧
    (∀ j, j < 16 → (schedule b).getD j 0 =
      ((b.getD (4 * j) 0).setWidth 32 <<< 24) ||| ((b.getD (4 * j + 1) 0).setWidth 32 <<< 16) |||
        ((b.getD (4 * j + 2) 0).setWidth 32 <<< 8) ||| (b.getD (4 * j + 3) 0).setWidth 32) ∧
    (∀ i, 16 ≤ i → i < 64 → (schedule b).getD i 0 =
      ssig1 ((schedule b).getD (i - 2) 0) + (schedule b).getD (i - 7) 0 + ssig0 ((schedule b).getD (i - 15) 0) +
        (schedule b).getD (i - 16) 0)

/-- R164: the working registers start from `H`, and round `n` updates them with `K[n]` and `W[n]`. -/
def Obligations.RoundsUpdateRegisters : Prop :=
  ∀ (r : ShaRegs) (n : Nat), n < 64 → ∀ p q : ShaRegs,
    p = ShaRegs.rounds n r.loadBlock → q = ShaRegs.rounds (n + 1) r.loadBlock →
    (n = 0 → (⟨p.a, p.b, p.c, p.d, p.e, p.f, p.g, p.h⟩ : Chain) = r.hh) ∧
    q.t1 = p.h + bsig1 p.e + ch p.e p.f p.g + roundConstants.getD n 0 +
      (schedule (blockBytes r.pm r.blk)).getD n 0 ∧
    q.t2 = bsig0 p.a + maj p.a p.b p.c ∧
    q.h = p.g ∧ q.g = p.f ∧ q.f = p.e ∧ q.e = p.d + q.t1 ∧ q.d = p.c ∧ q.c = p.b ∧ q.b = p.a ∧ q.a = q.t1 + q.t2 ∧
    q.hh = r.hh

/-- R161, R165, R166: a digest starts from `H0`, takes the blocks of the padded message in increasing order, adds the working registers
into `H` after the 64 rounds of each, and its result is the last `H`. -/
def Obligations.BlocksAccumulateInOrder : Prop :=
  ∀ (msg : List Byte) (n : Nat) (p q e : ShaRegs),
    p = ShaRegs.blocks n (ShaRegs.initial.start msg) → q = ShaRegs.blocks (n + 1) (ShaRegs.initial.start msg) →
    e = ShaRegs.rounds 64 p.loadBlock →
    (n = 0 → p.hh = initialChain) ∧ p.blk = n ∧ p.pm = pad msg ∧
    blockBytes p.pm p.blk = ((pad msg).drop (64 * n)).take 64 ∧
    q.hh = ⟨p.hh.w0 + e.a, p.hh.w1 + e.b, p.hh.w2 + e.c, p.hh.w3 + e.d, p.hh.w4 + e.e, p.hh.w5 + e.f, p.hh.w6 + e.g,
      p.hh.w7 + e.h⟩ ∧
    (64 * n = (pad msg).length → sha msg = p.hh)

/-- R167: character `8j + q` of the text is the digit of bits `31 - 4q` to `28 - 4q` of word `j`; 64 characters, lowercase. -/
def Obligations.HexRenderGivesDigits : Prop :=
  ∀ d : Chain, (hexRender d).length = 64 ∧
    ∀ (j : Fin 8) (q : Nat), q < 8 → ∀ v : Nat, v = (d.get j).toNat / 16 ^ (7 - q) % 16 →
      ((hexRender d).getD (8 * j.val + q) 0).toNat = (if v < 10 then 0x30 + v else 0x61 + v - 10)

/-- R168: `DIGEST` writes the hash of the input bytes and its text, sets `DV`, and changes nothing else but transient storage. It needs no
gate. -/
def Obligations.DigestWritesHash : Prop :=
  decodeCommand 0x00000004 = some .digest ∧ ∀ s : State, ∃ r : ShaRegs,
    exec .digest s = .next
      { s with
        msg := s.input
        sha := r
        dout := sha s.input
        hex := hexText (sha s.input)
        status := { s.status with dv := true } } ∧
    s.input.length = s.ilen.toNat ∧ ∀ k, k < s.ilen.toNat → s.input.getD k 0 = s.ibufByte k

/-! ## TokenEmitter (R180 to R186) -/

/-- R181: the decimal digits, most significant first, without leading zeros, 1 to 10 of them. -/
def Obligations.DecRenderGivesDigits : Prop :=
  ∀ (v : Word) (d : Nat), d = (decRender v).length →
    1 ≤ d ∧ d ≤ 10 ∧ v.toNat < 10 ^ d ∧ (v ≠ 0 → 10 ^ (d - 1) ≤ v.toNat) ∧
    (∀ k, k < d → ((decRender v).getD k 0).toNat = 0x30 + v.toNat / 10 ^ (d - 1 - k) % 10) ∧
    decRender 0 = [0x30]

/-- R182: the layout of a token. -/
def Obligations.TokenWrapLayout : Prop :=
  ∀ x : List Byte, x.length = 64 →
    (tokenWrap x).length = 73 ∧
    (tokenWrap x).take 8 = [0x6B, 0x63, 0x74, 0x66, 0x2D, 0x6A, 0x72, 0x7B] ∧
    (∀ k, k < 64 → (tokenWrap x).getD (8 + k) 0 = x.getD k 0) ∧
    (tokenWrap x).getD 72 0 = 0x7D

/-- R184: `EMIT.A` behind its gate writes the hash of the decimal text of `CAND`, its hex text and the token, sets `DV` and `TV`, and changes
nothing else but transient storage; otherwise it raises `NotAccepted`. -/
def Obligations.EmitAWritesToken : Prop :=
  decodeCommand 0x00000003 = some .emitA ∧ ∀ s : State,
    (s.status.vv = true → s.status.verdict = true → s.status.vpol = false →
      ∃ (r : ShaRegs) (dec : Vector Byte 10),
        exec .emitA s = .next
          { s with
            msg := decRender s.cand
            dec := dec
            dlen := (decRender s.cand).length
            sha := r
            dout := sha (decRender s.cand)
            hex := hexText (sha (decRender s.cand))
            token := tokenText (sha (decRender s.cand))
            status := { s.status with dv := true, tv := true } } ∧
        (tokenText (sha (decRender s.cand))).toList = tokenA s.cand ∧
        dec.toList.take (decRender s.cand).length = decRender s.cand) ∧
    (¬ (s.status.vv = true ∧ s.status.verdict = true ∧ s.status.vpol = false) →
      exec .emitA s = .next { s with status := { s.status with err := true, cause := .notAccepted } })

/-- R185: `EMIT.B` behind its gate writes the hash of the input bytes, its hex text and the token, sets `DV` and `TV`, and changes nothing
else but transient storage; in a state that meets the invariants the message is then 16 bytes; otherwise it raises `NotAccepted`. -/
def Obligations.EmitBWritesToken : Prop :=
  decodeCommand 0x00000013 = some .emitB ∧ ∀ s : State,
    (s.status.vv = true → s.status.verdict = true → s.status.vpol = true →
      (∃ r : ShaRegs,
        exec .emitB s = .next
          { s with
            msg := s.input
            sha := r
            dout := sha s.input
            hex := hexText (sha s.input)
            token := tokenText (sha s.input)
            status := { s.status with dv := true, tv := true } }) ∧
      (Inv s → s.ilen = 16 ∧ some (tokenText (sha s.input)).toList = tokenB s.input)) ∧
    (¬ (s.status.vv = true ∧ s.status.verdict = true ∧ s.status.vpol = true) →
      exec .emitB s = .next { s with status := { s.status with err := true, cause := .notAccepted } })

/-- R186: while `TV` is 1 the token has the template's form: every step keeps this. -/
def Obligations.TokenKeepsTemplate : Prop :=
  (∀ s t : State, TokenFormed s → step s = .next t → TokenFormed t) ∧
  (∀ (c : Cfg) (n : Nat), TokenFormed (State.afterReset c n)) ∧
  (∀ s : State, TokenFormed s → s.status.tv = true →
    s.token.toList.take 8 = tokenHead ∧ s.token[72] = 0x7D ∧
    ∀ k : Fin 73, 8 ≤ k.val → k.val < 72 →
      (0x30 ≤ s.token[k].toNat ∧ s.token[k].toNat ≤ 0x39) ∨ (0x61 ≤ s.token[k].toNat ∧ s.token[k].toNat ≤ 0x66))

/-- R224: after either `EMIT`, `HEX` is the middle of `TOKEN`; a `DIGEST` leaves `TOKEN` and `TV` as they were. -/
def Obligations.OutputsAreShared : Prop :=
  ∀ s t : State,
    (∀ i, i = .emitA ∧ s.status.accepted false = true ∨ i = .emitB ∧ s.status.accepted true = true → exec i s = .next t →
      t.hex.toList = (t.token.toList.drop 8).take 64) ∧
    (exec .digest s = .next t → t.token = s.token ∧ t.status.tv = s.status.tv)

/-! ## Registers and the host's accesses (R20 to R33, R50 to R67) -/

/-- R21: the register map. Every register and array element is what an access of its width at its offset, the number of the table, names;
at a reserved offset no access of any width names anything; each is found at one offset and width only; and the host may write `CMD`,
`CAND`, `ILEN` and `IBUF` alone. -/
def Obligations.RegisterMapIsOneToOne : Prop :=
  (∀ n : Nat,
    locate n 0x000 .word = .cmd ∧ locate n 0x004 .word = .status ∧ locate n 0x008 .word = .cand ∧
    locate n 0x00C .word = .ilen ∧ locate n 0x010 .word = .key ∧ locate n 0x014 .word = .c1 ∧ locate n 0x018 .word = .c2 ∧
    (∀ i : Fin 8, locate n (0x020 + 4 * i.val) .word = .dout i) ∧
    (∀ i : Fin 16, locate n (0x040 + i.val) .byte = .tgt i) ∧
    (∀ i : Fin 64, locate n (0x080 + i.val) .byte = .hex i) ∧
    (∀ i : Fin 73, locate n (0x0C0 + i.val) .byte = .token i) ∧
    (∀ i : Nat, i < n → locate n (0x200 + i) .byte = .ibuf i) ∧
    (∀ (offset : Nat) (w : Width),
      offset = 0x01C ∨ (0x050 ≤ offset ∧ offset ≤ 0x07F) ∨ (0x109 ≤ offset ∧ offset ≤ 0x1FF) ∨ 0x200 + n ≤ offset →
      locate n offset w = .undefinedOffset)) ∧
  (∀ g : Target, g.writable = true ↔ g = .cmd ∨ g = .cand ∨ g = .ilen ∨ ∃ i, g = .ibuf i) ∧
  (∀ (n : Nat) (g : Target), g ≠ .undefinedOffset → (∀ i, g = .ibuf i → i < n) → locate n g.offset g.width = g) ∧
  (∀ (n offset : Nat) (w : Width), locate n offset w ≠ .undefinedOffset →
    offset = (locate n offset w).offset ∧ w = (locate n offset w).width ∧ ∀ i, locate n offset w = .ibuf i → i < n)

/-- R22: the layout of `STATUS` as the host reads it. -/
def Obligations.StatusWordLayout : Prop :=
  ∀ f : Status,
    f.toWord.getLsbD 0 = f.refv ∧ f.toWord.getLsbD 1 = f.vv ∧ f.toWord.getLsbD 2 = (f.vv && f.verdict) ∧
    f.toWord.getLsbD 3 = (f.vv && f.vpol) ∧ f.toWord.getLsbD 4 = f.dv ∧ f.toWord.getLsbD 5 = f.tv ∧
    f.toWord.getLsbD 6 = false ∧ f.toWord.getLsbD 7 = f.err ∧
    f.toWord.extractLsb' 8 4 = (if f.err then f.cause.code else 0) ∧ (∀ k, 12 ≤ k → f.toWord.getLsbD k = false)

/-- R26: an accepted write of an input register stores the value and clears the verdict, and does nothing else. -/
def Obligations.InputWriteClearsVerdict : Prop :=
  ∀ s : State, s.status.err = false →
    (∀ v : Word, hostWrite 0x008 (.word v) s = .next
      { s with cand := v, status := { s.status with vv := false, verdict := false, vpol := false } }) ∧
    (∀ v : Word, v.toNat ≤ s.cfg.ibufMax → hostWrite 0x00C (.word v) s = .next
      { s with ilen := v, status := { s.status with vv := false, verdict := false, vpol := false } }) ∧
    (∀ (i : Nat) (b : Byte), i < s.cfg.ibufMax → ∃ m : Memory,
      hostWrite (0x200 + i) (.byte b) s = .next
        { s with ibuf := m, status := { s.status with vv := false, verdict := false, vpol := false } } ∧
      State.ibufByte { s with ibuf := m } i = b ∧ ∀ j, j ≠ i → State.ibufByte { s with ibuf := m } j = s.ibufByte j)

/-- R28, R58: a write to a read-only or undefined location, or of the wrong width or alignment, is `BadAccess` and stores nothing; a read
of an undefined offset, or with the wrong width or alignment, changes no register. -/
def Obligations.BadAccessesStoreNothing : Prop :=
  (∀ (n offset : Nat), locate n offset .half = .undefinedOffset ∧ locate n offset .wide = .undefinedOffset ∧
    (offset < 0x040 → locate n offset .byte = .undefinedOffset) ∧
    (0x040 ≤ offset → locate n offset .word = .undefinedOffset) ∧
    (offset % 4 ≠ 0 → locate n offset .word = .undefinedOffset)) ∧
  (∀ (s : State) (offset : Nat) (d : Datum), s.status.err = false →
    (locate s.cfg.ibufMax offset d.width).writable = false →
    hostWrite offset d s = .next { s with status := { s.status with err := true, cause := .badAccess } }) ∧
  (∀ (s : State) (offset : Nat) (w : Width), locate s.cfg.ibufMax offset w = .undefinedOffset →
    SameRegisters s (hostRead offset w s))

/-- R27, R59: a read returns the register, or an unspecified value where its valid flag is 0, and has no side effect on the engine. That
the unspecified value is a free one is the model's choice (log 9), and so is that an unwritten `CAND` or byte of `IBUF` reads as the free
content it holds (log 4). -/
def Obligations.ReadsReturnRegisters : Prop :=
  ∀ (s : State) (offset : Nat) (w : Width) (rest : List HostEvent), NextEvent s (.read offset w) rest →
    ∃ (v : Word) (n : Nat), step s = .next { s with host := rest, reads := v :: s.reads, draws := n } ∧
      (∀ g, locate s.cfg.ibufMax offset w = g →
        (g = .cmd → v = 0) ∧ (g = .status → v = s.status.toWord) ∧ (g = .cand → v = s.cand) ∧ (g = .ilen → v = s.ilen) ∧
        (g = .key → s.status.refv = true → v = s.key) ∧ (g = .c1 → s.status.refv = true → v = s.c1) ∧
        (g = .c2 → s.status.refv = true → v = s.c2) ∧
        (∀ j, g = .dout j → s.status.dv = true → v = s.dout.get j) ∧
        (∀ i, g = .tgt i → v = tgtTable[i].setWidth 32) ∧
        (∀ i, g = .hex i → s.status.dv = true → v = s.hex[i].setWidth 32) ∧
        (∀ i, g = .token i → s.status.tv = true → v = s.token[i].setWidth 32) ∧
        (∀ i, g = .ibuf i → v = (s.ibufByte i).setWidth 32))

/-- R21, the column "written by": each output is written by its own commands alone. -/
def Obligations.OutputsHaveTheirWriters : Prop :=
  ∀ (i : Instr) (s t : State), exec i s = .next t →
    (i ≠ .derive → t.key = s.key ∧ t.c1 = s.c1 ∧ t.c2 = s.c2 ∧ t.status.refv = s.status.refv) ∧
    (i ≠ .digest → i ≠ .emitA → i ≠ .emitB → t.dout = s.dout ∧ t.hex = s.hex ∧ t.status.dv = s.status.dv) ∧
    (i ≠ .emitA → i ≠ .emitB → t.token = s.token ∧ t.status.tv = s.status.tv) ∧
    (i ≠ .verifyA → i ≠ .verifyB →
      t.status.vv = s.status.vv ∧ t.status.verdict = s.status.verdict ∧ t.status.vpol = s.status.vpol)

/-- R60: no instruction writes an input register or array, and none touches the host's side or the configuration. -/
def Obligations.InstructionsKeepInputs : Prop :=
  ∀ (i : Instr) (s t : State), exec i s = .next t →
    t.cand = s.cand ∧ t.ilen = s.ilen ∧ t.ibuf = s.ibuf ∧ (∀ k, t.ibufByte k = s.ibufByte k) ∧ t.input = s.input ∧
    t.cfg = s.cfg ∧ t.host = s.host ∧ t.reads = s.reads ∧ t.draws = s.draws ∧ t.resets = s.resets ∧ t.uop = s.uop

/-- R22, R225: who sets a flag, and that `REFV`, `DV`, `TV` and `ERR` are cleared by `Reset` alone, over all steps. -/
def Obligations.FlagsChangeByTheirEvents : Prop :=
  ∀ s t : State, step s = .next t → ¬ ResetIsNext s →
    (s.status.refv = true → t.status.refv = true) ∧ (s.status.dv = true → t.status.dv = true) ∧
    (s.status.tv = true → t.status.tv = true) ∧ (s.status.err = true → t.status.err = true) ∧
    (t.status.refv = true → s.status.refv = true ∨ IssueIsNext s 0x01) ∧
    (t.status.vv = true → s.status.vv = true ∨ IssueIsNext s 0x02 ∨ IssueIsNext s 0x12) ∧
    (t.status.dv = true → s.status.dv = true ∨ IssueIsNext s 0x04 ∨ IssueIsNext s 0x03 ∨ IssueIsNext s 0x13) ∧
    (t.status.tv = true → s.status.tv = true ∨ IssueIsNext s 0x03 ∨ IssueIsNext s 0x13)

/-- R29, R31: transient storage carries nothing from one event to the next: states that differ in it alone take steps that differ in it
alone, so the host never sees it. -/
def Obligations.HiddenStorageStaysHidden : Prop :=
  ∀ s s' t : State, s.wiped = s'.wiped → step s = .next t → ∃ t' : State, step s' = .next t' ∧ t'.wiped = t.wiped

/-- R227: the bytes of `IBUF` at and beyond `ILEN` are ignored by every command. -/
def Obligations.StaleBytesAreIgnored : Prop :=
  ∀ (i : Instr) (s t : State) (m : Memory), i.isCommand = true →
    (∀ k, k < s.ilen.toNat → State.ibufByte { s with ibuf := m } k = s.ibufByte k) →
    exec i s = .next t → exec i { s with ibuf := m } = .next { t with ibuf := m }

/-! ## Faults (R190 to R198) -/

/-- R191: the five causes with their codes, and exactly when a write raises each; a read raises none. -/
def Obligations.FaultCausesAreExact : Prop :=
  [Cause.none, .illegalCommand, .notDerived, .notAccepted, .lengthOverflow, .badAccess].map Cause.code = [0, 1, 2, 3, 4, 5] ∧
  (∀ (s : State) (offset : Nat) (w : Width), (hostRead offset w s).status = s.status) ∧
  ∀ (s : State) (offset : Nat) (d : Datum), s.status.err = false → ∃ t : State, hostWrite offset d s = .next t ∧
    ∀ g, locate s.cfg.ibufMax offset d.width = g →
      ((t.status.err = true ∧ t.status.cause = .illegalCommand) ↔ ∃ w, g = .cmd ∧ d = .word w ∧ decodeCommand w = none) ∧
      ((t.status.err = true ∧ t.status.cause = .notDerived) ↔
        ∃ w, g = .cmd ∧ d = .word w ∧ s.status.refv = false ∧
          (decodeCommand w = some .verifyA ∨ decodeCommand w = some .verifyB)) ∧
      ((t.status.err = true ∧ t.status.cause = .notAccepted) ↔
        ∃ w, g = .cmd ∧ d = .word w ∧
          ((decodeCommand w = some .emitA ∧ ¬ (s.status.vv = true ∧ s.status.verdict = true ∧ s.status.vpol = false)) ∨
            (decodeCommand w = some .emitB ∧ ¬ (s.status.vv = true ∧ s.status.verdict = true ∧ s.status.vpol = true)))) ∧
      ((t.status.err = true ∧ t.status.cause = .lengthOverflow) ↔
        ∃ v, g = .ilen ∧ d = .word v ∧ s.cfg.ibufMax < v.toNat) ∧
      ((t.status.err = true ∧ t.status.cause = .badAccess) ↔ g.writable = false)

/-- R193: a write that faults sets `ERR` and `CAUSE` and changes nothing else. -/
def Obligations.FaultEntryIsPrecise : Prop :=
  ∀ (s t : State) (offset : Nat) (d : Datum), s.status.err = false → hostWrite offset d s = .next t →
    t.status.err = true → t = { s with status := { s.status with err := true, cause := t.status.cause } } ∧ t.status.cause ≠ .none

/-- R194: while `ERR` is 1 every write is ignored, and a read still returns what it would. -/
def Obligations.FaultedEngineIgnoresWrites : Prop :=
  ∀ (s : State) (rest : List HostEvent), s.status.err = true →
    (∀ (offset : Nat) (d : Datum), NextEvent s (.write offset d) rest → step s = .next { s with host := rest }) ∧
    (∀ (offset : Nat) (w : Width), NextEvent s (.read offset w) rest →
      step s = .next (hostRead offset w { s with host := rest }) ∧ SameRegisters s (hostRead offset w { s with host := rest }))

/-- R195, R33.9: after a fault no register changes, and `CAUSE` keeps naming it, until a `Reset`; `Reset` clears both,
and `STATUS` and `ILEN` with them (R220 leaves the rest unspecified). -/
def Obligations.OnlyResetClearsFault : Prop :=
  ∀ s t : State, s.status.err = true → step s = .next t →
    (¬ ResetIsNext s → SameRegisters s t) ∧
    (ResetIsNext s → t.status.err = false ∧ t.status.cause = .none ∧ t.status.toWord = 0 ∧ t.ilen = 0)

/-- R196: the checks of one write event, in their order; each case excludes the ones before it. -/
def Obligations.WriteChecksInOrder : Prop :=
  ∀ (s : State) (offset : Nat) (d : Datum) (g : Target), g = locate s.cfg.ibufMax offset d.width →
    (s.status.err = true → hostWrite offset d s = .next s) ∧
    (s.status.err = false →
      (g.writable = false → hostWrite offset d s = .next (raiseFault .badAccess s)) ∧
      (g = .ilen → ∃ v, d = .word v ∧
        hostWrite offset d s = .next (if s.cfg.ibufMax < v.toNat then raiseFault .lengthOverflow s else s.storeIlen v)) ∧
      (g = .cand → ∃ v, d = .word v ∧ hostWrite offset d s = .next (s.storeCand v)) ∧
      (∀ i, g = .ibuf i → ∃ b, d = .byte b ∧ hostWrite offset d s = .next (s.storeIbuf i b)) ∧
      (g = .cmd → ∃ w, d = .word w ∧
        (decodeCommand w = none → hostWrite offset d s = .next (raiseFault .illegalCommand s)) ∧
        (∀ i, decodeCommand w = some i → hostWrite offset d s = exec i s)))

/-- R190: no command that passes its gate faults while it computes. -/
def Obligations.GatedCommandsDoNotFault : Prop :=
  ∀ (i : Instr) (s : State), i.isCommand = true →
    (i = .verifyA ∨ i = .verifyB → s.status.refv = true) →
    (i = .emitA → s.status.accepted false = true) → (i = .emitB → s.status.accepted true = true) →
    ∃ t : State, exec i s = .next t ∧ t.status.err = s.status.err ∧ t.status.cause = s.status.cause

/-! ## Steps and runs (R57, R220 to R230) -/

/-- R16, R57, R71: when the next event is a write, of whatever offset, datum and state, the step is `hostWrite` of it, with the event taken
off the host's list; when the word written to `CMD` decodes to a command and `ERR` is 0, the step is that command's `exec`, with the event
taken off and nothing else around it; when the micro-op word in the mixer decodes, the step is that micro-op's `exec`, with the
word taken out (the latter is the model's own, log 8). Placing a word and stepping runs it. -/
def Obligations.StepRunsDecodedInstruction : Prop :=
  (∀ (s : State) (offset : Nat) (d : Datum) (rest : List HostEvent), NextEvent s (.write offset d) rest →
    step s = hostWrite offset d { s with host := rest }) ∧
  (∀ (s : State) (w : Word) (i : Instr), IssueIsNext s w → decodeCommand w = some i →
    ∃ rest, s.host = .write 0x000 (.word w) :: rest ∧ step s = exec i { s with host := rest }) ∧
  (∀ (s : State) (u : MicroWord) (i : Instr), s.uop = some u → decodeMicro u = some i → step s = exec i { s with uop := none }) ∧
  (∀ (s : State) (nbits w : Nat) (i : Instr), s.uop = none → s.status.err = false → decodeTableWord nbits w = some i →
    step (s.withFetchWord nbits w) = exec i s)

/-- R229, R190: no step ever stops the machine: from every state whose mixer holds no micro-op word of its own a step gives a next state,
and leaves the mixer so (log 8). -/
def Obligations.EngineNeverStops : Prop :=
  ∀ s : State, s.uop = none → ∃ t : State, step s = .next t ∧ t.uop = none

/-- R220, R221: what `Reset` leaves: every flag and `ILEN` at 0, `STATUS` reading 0, the constants as always, no byte of `IBUF` written,
whatever the state before; and the first state is such a state. Values the spec leaves unspecified are not stated. -/
def Obligations.ResetClearsEngine : Prop :=
  (∀ (s : State) (rest : List HostEvent), NextEvent s .reset rest → ∃ t : State, step s = .next t ∧
    t.status.toWord = 0 ∧ t.status.refv = false ∧ t.status.vv = false ∧ t.status.verdict = false ∧ t.status.vpol = false ∧
    t.status.dv = false ∧ t.status.tv = false ∧ t.status.err = false ∧ t.status.cause = .none ∧
    t.ilen = 0 ∧ t.cfg = s.cfg ∧ t.ibuf = [] ∧ t.host = rest ∧ t.reads = s.reads) ∧
  (State.reset.status.toWord = 0 ∧ State.reset.ilen = 0 ∧ State.reset.status.err = false ∧ State.reset.status.cause = .none ∧
    State.reset.ibuf = [] ∧ State.reset.host = [] ∧ State.reset.uop = none)

/-- R33 at the first state: the invariants hold after `Reset`, of every configuration. -/
def Obligations.ResetMeetsInvariants : Prop :=
  Inv State.reset ∧ ∀ (c : Cfg) (n : Nat), Inv (State.afterReset c n)

/-- R33: every step keeps the invariants, from every state that meets them, reachable or not. -/
def Obligations.StepKeepsInvariants : Prop :=
  ∀ s t : State, Inv s → step s = .next t → Inv t

/-- R33: the invariants hold in every state reachable from `Reset` by host events, of every configuration; and once `ERR` is 1 no register
or array changes until `Reset`. That the mixer then holds no micro-op word of its own is a fact about the model's own field (log 8). -/
def Obligations.ReachableStatesMeetInvariants : Prop :=
  ∀ s : State, Reachable s →
    Inv s ∧ s.uop = none ∧ (∀ t : State, s.status.err = true → step s = .next t → ¬ ResetIsNext s → SameRegisters s t)
end

