-- ==== Sys2Proof/Laws/State.lean ====
section
/-! SUPPORT. Every field after every named update of the state and of `STATUS`, so that no later proof unfolds a record update. -/

namespace Sys2Proof.Machine

/-! ## `Status.raise` -/

@[simp] theorem Status.raise_refv (f : Status) (c : Cause) : (f.raise c).refv = f.refv := rfl
@[simp] theorem Status.raise_vv (f : Status) (c : Cause) : (f.raise c).vv = f.vv := rfl
@[simp] theorem Status.raise_verdict (f : Status) (c : Cause) : (f.raise c).verdict = f.verdict := rfl
@[simp] theorem Status.raise_vpol (f : Status) (c : Cause) : (f.raise c).vpol = f.vpol := rfl
@[simp] theorem Status.raise_dv (f : Status) (c : Cause) : (f.raise c).dv = f.dv := rfl
@[simp] theorem Status.raise_tv (f : Status) (c : Cause) : (f.raise c).tv = f.tv := rfl
@[simp] theorem Status.raise_err (f : Status) (c : Cause) : (f.raise c).err = true := rfl
@[simp] theorem Status.raise_cause (f : Status) (c : Cause) : (f.raise c).cause = c := rfl

/-! ## `Status.clearVerdict` -/

@[simp] theorem Status.clearVerdict_refv (f : Status) : f.clearVerdict.refv = f.refv := rfl
@[simp] theorem Status.clearVerdict_vv (f : Status) : f.clearVerdict.vv = false := rfl
@[simp] theorem Status.clearVerdict_verdict (f : Status) : f.clearVerdict.verdict = false := rfl
@[simp] theorem Status.clearVerdict_vpol (f : Status) : f.clearVerdict.vpol = false := rfl
@[simp] theorem Status.clearVerdict_dv (f : Status) : f.clearVerdict.dv = f.dv := rfl
@[simp] theorem Status.clearVerdict_tv (f : Status) : f.clearVerdict.tv = f.tv := rfl
@[simp] theorem Status.clearVerdict_err (f : Status) : f.clearVerdict.err = f.err := rfl
@[simp] theorem Status.clearVerdict_cause (f : Status) : f.clearVerdict.cause = f.cause := rfl

/-! ## `Status.setVerdict` -/

@[simp] theorem Status.setVerdict_refv (f : Status) (pol ok : Bool) : (f.setVerdict pol ok).refv = f.refv := rfl
@[simp] theorem Status.setVerdict_vv (f : Status) (pol ok : Bool) : (f.setVerdict pol ok).vv = true := rfl
@[simp] theorem Status.setVerdict_verdict (f : Status) (pol ok : Bool) : (f.setVerdict pol ok).verdict = ok := rfl
@[simp] theorem Status.setVerdict_vpol (f : Status) (pol ok : Bool) : (f.setVerdict pol ok).vpol = pol := rfl
@[simp] theorem Status.setVerdict_dv (f : Status) (pol ok : Bool) : (f.setVerdict pol ok).dv = f.dv := rfl
@[simp] theorem Status.setVerdict_tv (f : Status) (pol ok : Bool) : (f.setVerdict pol ok).tv = f.tv := rfl
@[simp] theorem Status.setVerdict_err (f : Status) (pol ok : Bool) : (f.setVerdict pol ok).err = f.err := rfl
@[simp] theorem Status.setVerdict_cause (f : Status) (pol ok : Bool) : (f.setVerdict pol ok).cause = f.cause := rfl

/-! ## `Status.setRefv` -/

@[simp] theorem Status.setRefv_refv (f : Status) : f.setRefv.refv = true := rfl
@[simp] theorem Status.setRefv_vv (f : Status) : f.setRefv.vv = f.vv := rfl
@[simp] theorem Status.setRefv_verdict (f : Status) : f.setRefv.verdict = f.verdict := rfl
@[simp] theorem Status.setRefv_vpol (f : Status) : f.setRefv.vpol = f.vpol := rfl
@[simp] theorem Status.setRefv_dv (f : Status) : f.setRefv.dv = f.dv := rfl
@[simp] theorem Status.setRefv_tv (f : Status) : f.setRefv.tv = f.tv := rfl
@[simp] theorem Status.setRefv_err (f : Status) : f.setRefv.err = f.err := rfl
@[simp] theorem Status.setRefv_cause (f : Status) : f.setRefv.cause = f.cause := rfl

/-! ## `Status.setDv` -/

@[simp] theorem Status.setDv_refv (f : Status) : f.setDv.refv = f.refv := rfl
@[simp] theorem Status.setDv_vv (f : Status) : f.setDv.vv = f.vv := rfl
@[simp] theorem Status.setDv_verdict (f : Status) : f.setDv.verdict = f.verdict := rfl
@[simp] theorem Status.setDv_vpol (f : Status) : f.setDv.vpol = f.vpol := rfl
@[simp] theorem Status.setDv_dv (f : Status) : f.setDv.dv = true := rfl
@[simp] theorem Status.setDv_tv (f : Status) : f.setDv.tv = f.tv := rfl
@[simp] theorem Status.setDv_err (f : Status) : f.setDv.err = f.err := rfl
@[simp] theorem Status.setDv_cause (f : Status) : f.setDv.cause = f.cause := rfl

/-! ## `Status.setToken` -/

@[simp] theorem Status.setToken_refv (f : Status) : f.setToken.refv = f.refv := rfl
@[simp] theorem Status.setToken_vv (f : Status) : f.setToken.vv = f.vv := rfl
@[simp] theorem Status.setToken_verdict (f : Status) : f.setToken.verdict = f.verdict := rfl
@[simp] theorem Status.setToken_vpol (f : Status) : f.setToken.vpol = f.vpol := rfl
@[simp] theorem Status.setToken_dv (f : Status) : f.setToken.dv = true := rfl
@[simp] theorem Status.setToken_tv (f : Status) : f.setToken.tv = true := rfl
@[simp] theorem Status.setToken_err (f : Status) : f.setToken.err = f.err := rfl
@[simp] theorem Status.setToken_cause (f : Status) : f.setToken.cause = f.cause := rfl

/-! ## `State.clearVerdict` -/

@[simp] theorem State.clearVerdict_cfg (s : State) : s.clearVerdict.cfg = s.cfg := rfl
@[simp] theorem State.clearVerdict_status (s : State) : s.clearVerdict.status = s.status.clearVerdict := rfl
@[simp] theorem State.clearVerdict_cand (s : State) : s.clearVerdict.cand = s.cand := rfl
@[simp] theorem State.clearVerdict_ilen (s : State) : s.clearVerdict.ilen = s.ilen := rfl
@[simp] theorem State.clearVerdict_key (s : State) : s.clearVerdict.key = s.key := rfl
@[simp] theorem State.clearVerdict_c1 (s : State) : s.clearVerdict.c1 = s.c1 := rfl
@[simp] theorem State.clearVerdict_c2 (s : State) : s.clearVerdict.c2 = s.c2 := rfl
@[simp] theorem State.clearVerdict_dout (s : State) : s.clearVerdict.dout = s.dout := rfl
@[simp] theorem State.clearVerdict_hex (s : State) : s.clearVerdict.hex = s.hex := rfl
@[simp] theorem State.clearVerdict_token (s : State) : s.clearVerdict.token = s.token := rfl
@[simp] theorem State.clearVerdict_ibuf (s : State) : s.clearVerdict.ibuf = s.ibuf := rfl
@[simp] theorem State.clearVerdict_mixer (s : State) : s.clearVerdict.mixer = s.mixer := rfl
@[simp] theorem State.clearVerdict_xt (s : State) : s.clearVerdict.xt = s.xt := rfl
@[simp] theorem State.clearVerdict_idx (s : State) : s.clearVerdict.idx = s.idx := rfl
@[simp] theorem State.clearVerdict_msg (s : State) : s.clearVerdict.msg = s.msg := rfl
@[simp] theorem State.clearVerdict_dec (s : State) : s.clearVerdict.dec = s.dec := rfl
@[simp] theorem State.clearVerdict_dlen (s : State) : s.clearVerdict.dlen = s.dlen := rfl
@[simp] theorem State.clearVerdict_sha (s : State) : s.clearVerdict.sha = s.sha := rfl
@[simp] theorem State.clearVerdict_uop (s : State) : s.clearVerdict.uop = s.uop := rfl
@[simp] theorem State.clearVerdict_host (s : State) : s.clearVerdict.host = s.host := rfl
@[simp] theorem State.clearVerdict_reads (s : State) : s.clearVerdict.reads = s.reads := rfl
@[simp] theorem State.clearVerdict_draws (s : State) : s.clearVerdict.draws = s.draws := rfl
@[simp] theorem State.clearVerdict_resets (s : State) : s.clearVerdict.resets = s.resets := rfl

/-! ## `State.storeCand` -/

@[simp] theorem State.storeCand_cfg (s : State) (v : Word) : (s.storeCand v).cfg = s.cfg := rfl
@[simp] theorem State.storeCand_status (s : State) (v : Word) : (s.storeCand v).status = s.status.clearVerdict := rfl
@[simp] theorem State.storeCand_cand (s : State) (v : Word) : (s.storeCand v).cand = v := rfl
@[simp] theorem State.storeCand_ilen (s : State) (v : Word) : (s.storeCand v).ilen = s.ilen := rfl
@[simp] theorem State.storeCand_key (s : State) (v : Word) : (s.storeCand v).key = s.key := rfl
@[simp] theorem State.storeCand_c1 (s : State) (v : Word) : (s.storeCand v).c1 = s.c1 := rfl
@[simp] theorem State.storeCand_c2 (s : State) (v : Word) : (s.storeCand v).c2 = s.c2 := rfl
@[simp] theorem State.storeCand_dout (s : State) (v : Word) : (s.storeCand v).dout = s.dout := rfl
@[simp] theorem State.storeCand_hex (s : State) (v : Word) : (s.storeCand v).hex = s.hex := rfl
@[simp] theorem State.storeCand_token (s : State) (v : Word) : (s.storeCand v).token = s.token := rfl
@[simp] theorem State.storeCand_ibuf (s : State) (v : Word) : (s.storeCand v).ibuf = s.ibuf := rfl
@[simp] theorem State.storeCand_mixer (s : State) (v : Word) : (s.storeCand v).mixer = s.mixer := rfl
@[simp] theorem State.storeCand_xt (s : State) (v : Word) : (s.storeCand v).xt = s.xt := rfl
@[simp] theorem State.storeCand_idx (s : State) (v : Word) : (s.storeCand v).idx = s.idx := rfl
@[simp] theorem State.storeCand_msg (s : State) (v : Word) : (s.storeCand v).msg = s.msg := rfl
@[simp] theorem State.storeCand_dec (s : State) (v : Word) : (s.storeCand v).dec = s.dec := rfl
@[simp] theorem State.storeCand_dlen (s : State) (v : Word) : (s.storeCand v).dlen = s.dlen := rfl
@[simp] theorem State.storeCand_sha (s : State) (v : Word) : (s.storeCand v).sha = s.sha := rfl
@[simp] theorem State.storeCand_uop (s : State) (v : Word) : (s.storeCand v).uop = s.uop := rfl
@[simp] theorem State.storeCand_host (s : State) (v : Word) : (s.storeCand v).host = s.host := rfl
@[simp] theorem State.storeCand_reads (s : State) (v : Word) : (s.storeCand v).reads = s.reads := rfl
@[simp] theorem State.storeCand_draws (s : State) (v : Word) : (s.storeCand v).draws = s.draws := rfl
@[simp] theorem State.storeCand_resets (s : State) (v : Word) : (s.storeCand v).resets = s.resets := rfl

/-! ## `State.storeIlen` -/

@[simp] theorem State.storeIlen_cfg (s : State) (v : Word) : (s.storeIlen v).cfg = s.cfg := rfl
@[simp] theorem State.storeIlen_status (s : State) (v : Word) : (s.storeIlen v).status = s.status.clearVerdict := rfl
@[simp] theorem State.storeIlen_cand (s : State) (v : Word) : (s.storeIlen v).cand = s.cand := rfl
@[simp] theorem State.storeIlen_ilen (s : State) (v : Word) : (s.storeIlen v).ilen = v := rfl
@[simp] theorem State.storeIlen_key (s : State) (v : Word) : (s.storeIlen v).key = s.key := rfl
@[simp] theorem State.storeIlen_c1 (s : State) (v : Word) : (s.storeIlen v).c1 = s.c1 := rfl
@[simp] theorem State.storeIlen_c2 (s : State) (v : Word) : (s.storeIlen v).c2 = s.c2 := rfl
@[simp] theorem State.storeIlen_dout (s : State) (v : Word) : (s.storeIlen v).dout = s.dout := rfl
@[simp] theorem State.storeIlen_hex (s : State) (v : Word) : (s.storeIlen v).hex = s.hex := rfl
@[simp] theorem State.storeIlen_token (s : State) (v : Word) : (s.storeIlen v).token = s.token := rfl
@[simp] theorem State.storeIlen_ibuf (s : State) (v : Word) : (s.storeIlen v).ibuf = s.ibuf := rfl
@[simp] theorem State.storeIlen_mixer (s : State) (v : Word) : (s.storeIlen v).mixer = s.mixer := rfl
@[simp] theorem State.storeIlen_xt (s : State) (v : Word) : (s.storeIlen v).xt = s.xt := rfl
@[simp] theorem State.storeIlen_idx (s : State) (v : Word) : (s.storeIlen v).idx = s.idx := rfl
@[simp] theorem State.storeIlen_msg (s : State) (v : Word) : (s.storeIlen v).msg = s.msg := rfl
@[simp] theorem State.storeIlen_dec (s : State) (v : Word) : (s.storeIlen v).dec = s.dec := rfl
@[simp] theorem State.storeIlen_dlen (s : State) (v : Word) : (s.storeIlen v).dlen = s.dlen := rfl
@[simp] theorem State.storeIlen_sha (s : State) (v : Word) : (s.storeIlen v).sha = s.sha := rfl
@[simp] theorem State.storeIlen_uop (s : State) (v : Word) : (s.storeIlen v).uop = s.uop := rfl
@[simp] theorem State.storeIlen_host (s : State) (v : Word) : (s.storeIlen v).host = s.host := rfl
@[simp] theorem State.storeIlen_reads (s : State) (v : Word) : (s.storeIlen v).reads = s.reads := rfl
@[simp] theorem State.storeIlen_draws (s : State) (v : Word) : (s.storeIlen v).draws = s.draws := rfl
@[simp] theorem State.storeIlen_resets (s : State) (v : Word) : (s.storeIlen v).resets = s.resets := rfl

/-! ## `State.storeIbuf` -/

@[simp] theorem State.storeIbuf_cfg (s : State) (i : Nat) (b : Byte) : (s.storeIbuf i b).cfg = s.cfg := rfl
@[simp] theorem State.storeIbuf_status (s : State) (i : Nat) (b : Byte) : (s.storeIbuf i b).status = s.status.clearVerdict := rfl
@[simp] theorem State.storeIbuf_cand (s : State) (i : Nat) (b : Byte) : (s.storeIbuf i b).cand = s.cand := rfl
@[simp] theorem State.storeIbuf_ilen (s : State) (i : Nat) (b : Byte) : (s.storeIbuf i b).ilen = s.ilen := rfl
@[simp] theorem State.storeIbuf_key (s : State) (i : Nat) (b : Byte) : (s.storeIbuf i b).key = s.key := rfl
@[simp] theorem State.storeIbuf_c1 (s : State) (i : Nat) (b : Byte) : (s.storeIbuf i b).c1 = s.c1 := rfl
@[simp] theorem State.storeIbuf_c2 (s : State) (i : Nat) (b : Byte) : (s.storeIbuf i b).c2 = s.c2 := rfl
@[simp] theorem State.storeIbuf_dout (s : State) (i : Nat) (b : Byte) : (s.storeIbuf i b).dout = s.dout := rfl
@[simp] theorem State.storeIbuf_hex (s : State) (i : Nat) (b : Byte) : (s.storeIbuf i b).hex = s.hex := rfl
@[simp] theorem State.storeIbuf_token (s : State) (i : Nat) (b : Byte) : (s.storeIbuf i b).token = s.token := rfl
@[simp] theorem State.storeIbuf_ibuf (s : State) (i : Nat) (b : Byte) : (s.storeIbuf i b).ibuf = Memory.write s.ibuf i b := rfl
@[simp] theorem State.storeIbuf_mixer (s : State) (i : Nat) (b : Byte) : (s.storeIbuf i b).mixer = s.mixer := rfl
@[simp] theorem State.storeIbuf_xt (s : State) (i : Nat) (b : Byte) : (s.storeIbuf i b).xt = s.xt := rfl
@[simp] theorem State.storeIbuf_idx (s : State) (i : Nat) (b : Byte) : (s.storeIbuf i b).idx = s.idx := rfl
@[simp] theorem State.storeIbuf_msg (s : State) (i : Nat) (b : Byte) : (s.storeIbuf i b).msg = s.msg := rfl
@[simp] theorem State.storeIbuf_dec (s : State) (i : Nat) (b : Byte) : (s.storeIbuf i b).dec = s.dec := rfl
@[simp] theorem State.storeIbuf_dlen (s : State) (i : Nat) (b : Byte) : (s.storeIbuf i b).dlen = s.dlen := rfl
@[simp] theorem State.storeIbuf_sha (s : State) (i : Nat) (b : Byte) : (s.storeIbuf i b).sha = s.sha := rfl
@[simp] theorem State.storeIbuf_uop (s : State) (i : Nat) (b : Byte) : (s.storeIbuf i b).uop = s.uop := rfl
@[simp] theorem State.storeIbuf_host (s : State) (i : Nat) (b : Byte) : (s.storeIbuf i b).host = s.host := rfl
@[simp] theorem State.storeIbuf_reads (s : State) (i : Nat) (b : Byte) : (s.storeIbuf i b).reads = s.reads := rfl
@[simp] theorem State.storeIbuf_draws (s : State) (i : Nat) (b : Byte) : (s.storeIbuf i b).draws = s.draws := rfl
@[simp] theorem State.storeIbuf_resets (s : State) (i : Nat) (b : Byte) : (s.storeIbuf i b).resets = s.resets := rfl

/-! ## `raiseFault` -/

@[simp] theorem raiseFault_cfg (c : Cause) (s : State) : (raiseFault c s).cfg = s.cfg := rfl
@[simp] theorem raiseFault_status (c : Cause) (s : State) : (raiseFault c s).status = s.status.raise c := rfl
@[simp] theorem raiseFault_cand (c : Cause) (s : State) : (raiseFault c s).cand = s.cand := rfl
@[simp] theorem raiseFault_ilen (c : Cause) (s : State) : (raiseFault c s).ilen = s.ilen := rfl
@[simp] theorem raiseFault_key (c : Cause) (s : State) : (raiseFault c s).key = s.key := rfl
@[simp] theorem raiseFault_c1 (c : Cause) (s : State) : (raiseFault c s).c1 = s.c1 := rfl
@[simp] theorem raiseFault_c2 (c : Cause) (s : State) : (raiseFault c s).c2 = s.c2 := rfl
@[simp] theorem raiseFault_dout (c : Cause) (s : State) : (raiseFault c s).dout = s.dout := rfl
@[simp] theorem raiseFault_hex (c : Cause) (s : State) : (raiseFault c s).hex = s.hex := rfl
@[simp] theorem raiseFault_token (c : Cause) (s : State) : (raiseFault c s).token = s.token := rfl
@[simp] theorem raiseFault_ibuf (c : Cause) (s : State) : (raiseFault c s).ibuf = s.ibuf := rfl
@[simp] theorem raiseFault_mixer (c : Cause) (s : State) : (raiseFault c s).mixer = s.mixer := rfl
@[simp] theorem raiseFault_xt (c : Cause) (s : State) : (raiseFault c s).xt = s.xt := rfl
@[simp] theorem raiseFault_idx (c : Cause) (s : State) : (raiseFault c s).idx = s.idx := rfl
@[simp] theorem raiseFault_msg (c : Cause) (s : State) : (raiseFault c s).msg = s.msg := rfl
@[simp] theorem raiseFault_dec (c : Cause) (s : State) : (raiseFault c s).dec = s.dec := rfl
@[simp] theorem raiseFault_dlen (c : Cause) (s : State) : (raiseFault c s).dlen = s.dlen := rfl
@[simp] theorem raiseFault_sha (c : Cause) (s : State) : (raiseFault c s).sha = s.sha := rfl
@[simp] theorem raiseFault_uop (c : Cause) (s : State) : (raiseFault c s).uop = s.uop := rfl
@[simp] theorem raiseFault_host (c : Cause) (s : State) : (raiseFault c s).host = s.host := rfl
@[simp] theorem raiseFault_reads (c : Cause) (s : State) : (raiseFault c s).reads = s.reads := rfl
@[simp] theorem raiseFault_draws (c : Cause) (s : State) : (raiseFault c s).draws = s.draws := rfl
@[simp] theorem raiseFault_resets (c : Cause) (s : State) : (raiseFault c s).resets = s.resets := rfl

/-! ## `resetEngine` -/

@[simp] theorem resetEngine_cfg (s : State) : (resetEngine s).cfg = s.cfg := rfl
@[simp] theorem resetEngine_status (s : State) : (resetEngine s).status = (State.afterReset s.cfg (s.resets + 1)).status := rfl
@[simp] theorem resetEngine_cand (s : State) : (resetEngine s).cand = Config.resetCand (s.resets + 1) := rfl
@[simp] theorem resetEngine_ilen (s : State) : (resetEngine s).ilen = 0 := rfl
@[simp] theorem resetEngine_key (s : State) : (resetEngine s).key = (State.afterReset s.cfg (s.resets + 1)).key := rfl
@[simp] theorem resetEngine_c1 (s : State) : (resetEngine s).c1 = (State.afterReset s.cfg (s.resets + 1)).c1 := rfl
@[simp] theorem resetEngine_c2 (s : State) : (resetEngine s).c2 = (State.afterReset s.cfg (s.resets + 1)).c2 := rfl
@[simp] theorem resetEngine_dout (s : State) : (resetEngine s).dout = (State.afterReset s.cfg (s.resets + 1)).dout := rfl
@[simp] theorem resetEngine_hex (s : State) : (resetEngine s).hex = (State.afterReset s.cfg (s.resets + 1)).hex := rfl
@[simp] theorem resetEngine_token (s : State) : (resetEngine s).token = (State.afterReset s.cfg (s.resets + 1)).token := rfl
@[simp] theorem resetEngine_ibuf (s : State) : (resetEngine s).ibuf = [] := rfl
@[simp] theorem resetEngine_mixer (s : State) : (resetEngine s).mixer = (State.afterReset s.cfg (s.resets + 1)).mixer := rfl
@[simp] theorem resetEngine_xt (s : State) : (resetEngine s).xt = (State.afterReset s.cfg (s.resets + 1)).xt := rfl
@[simp] theorem resetEngine_idx (s : State) : (resetEngine s).idx = (State.afterReset s.cfg (s.resets + 1)).idx := rfl
@[simp] theorem resetEngine_msg (s : State) : (resetEngine s).msg = (State.afterReset s.cfg (s.resets + 1)).msg := rfl
@[simp] theorem resetEngine_dec (s : State) : (resetEngine s).dec = (State.afterReset s.cfg (s.resets + 1)).dec := rfl
@[simp] theorem resetEngine_dlen (s : State) : (resetEngine s).dlen = (State.afterReset s.cfg (s.resets + 1)).dlen := rfl
@[simp] theorem resetEngine_sha (s : State) : (resetEngine s).sha = (State.afterReset s.cfg (s.resets + 1)).sha := rfl
@[simp] theorem resetEngine_uop (s : State) : (resetEngine s).uop = none := rfl
@[simp] theorem resetEngine_host (s : State) : (resetEngine s).host = s.host := rfl
@[simp] theorem resetEngine_reads (s : State) : (resetEngine s).reads = s.reads := rfl
@[simp] theorem resetEngine_draws (s : State) : (resetEngine s).draws = s.draws := rfl
@[simp] theorem resetEngine_resets (s : State) : (resetEngine s).resets = s.resets + 1 := rfl

/-! ## `State.digestInto` -/

@[simp] theorem State.digestInto_cfg (s : State) (msg : List Byte) : (s.digestInto msg).cfg = s.cfg := rfl
@[simp] theorem State.digestInto_status (s : State) (msg : List Byte) : (s.digestInto msg).status = s.status := rfl
@[simp] theorem State.digestInto_cand (s : State) (msg : List Byte) : (s.digestInto msg).cand = s.cand := rfl
@[simp] theorem State.digestInto_ilen (s : State) (msg : List Byte) : (s.digestInto msg).ilen = s.ilen := rfl
@[simp] theorem State.digestInto_key (s : State) (msg : List Byte) : (s.digestInto msg).key = s.key := rfl
@[simp] theorem State.digestInto_c1 (s : State) (msg : List Byte) : (s.digestInto msg).c1 = s.c1 := rfl
@[simp] theorem State.digestInto_c2 (s : State) (msg : List Byte) : (s.digestInto msg).c2 = s.c2 := rfl
@[simp] theorem State.digestInto_dout (s : State) (msg : List Byte) : (s.digestInto msg).dout = (s.sha.run msg).hh := rfl
@[simp] theorem State.digestInto_hex (s : State) (msg : List Byte) : (s.digestInto msg).hex = hexText (s.sha.run msg).hh := rfl
@[simp] theorem State.digestInto_token (s : State) (msg : List Byte) : (s.digestInto msg).token = s.token := rfl
@[simp] theorem State.digestInto_ibuf (s : State) (msg : List Byte) : (s.digestInto msg).ibuf = s.ibuf := rfl
@[simp] theorem State.digestInto_mixer (s : State) (msg : List Byte) : (s.digestInto msg).mixer = s.mixer := rfl
@[simp] theorem State.digestInto_xt (s : State) (msg : List Byte) : (s.digestInto msg).xt = s.xt := rfl
@[simp] theorem State.digestInto_idx (s : State) (msg : List Byte) : (s.digestInto msg).idx = s.idx := rfl
@[simp] theorem State.digestInto_msg (s : State) (msg : List Byte) : (s.digestInto msg).msg = msg := rfl
@[simp] theorem State.digestInto_dec (s : State) (msg : List Byte) : (s.digestInto msg).dec = s.dec := rfl
@[simp] theorem State.digestInto_dlen (s : State) (msg : List Byte) : (s.digestInto msg).dlen = s.dlen := rfl
@[simp] theorem State.digestInto_sha (s : State) (msg : List Byte) : (s.digestInto msg).sha = s.sha.run msg := rfl
@[simp] theorem State.digestInto_uop (s : State) (msg : List Byte) : (s.digestInto msg).uop = s.uop := rfl
@[simp] theorem State.digestInto_host (s : State) (msg : List Byte) : (s.digestInto msg).host = s.host := rfl
@[simp] theorem State.digestInto_reads (s : State) (msg : List Byte) : (s.digestInto msg).reads = s.reads := rfl
@[simp] theorem State.digestInto_draws (s : State) (msg : List Byte) : (s.digestInto msg).draws = s.draws := rfl
@[simp] theorem State.digestInto_resets (s : State) (msg : List Byte) : (s.digestInto msg).resets = s.resets := rfl

/-! ## `State.emitFrom` -/

@[simp] theorem State.emitFrom_cfg (s : State) (msg : List Byte) : (s.emitFrom msg).cfg = s.cfg := rfl
@[simp] theorem State.emitFrom_status (s : State) (msg : List Byte) : (s.emitFrom msg).status = s.status.setToken := rfl
@[simp] theorem State.emitFrom_cand (s : State) (msg : List Byte) : (s.emitFrom msg).cand = s.cand := rfl
@[simp] theorem State.emitFrom_ilen (s : State) (msg : List Byte) : (s.emitFrom msg).ilen = s.ilen := rfl
@[simp] theorem State.emitFrom_key (s : State) (msg : List Byte) : (s.emitFrom msg).key = s.key := rfl
@[simp] theorem State.emitFrom_c1 (s : State) (msg : List Byte) : (s.emitFrom msg).c1 = s.c1 := rfl
@[simp] theorem State.emitFrom_c2 (s : State) (msg : List Byte) : (s.emitFrom msg).c2 = s.c2 := rfl
@[simp] theorem State.emitFrom_dout (s : State) (msg : List Byte) : (s.emitFrom msg).dout = (s.sha.run msg).hh := rfl
@[simp] theorem State.emitFrom_hex (s : State) (msg : List Byte) : (s.emitFrom msg).hex = hexText (s.sha.run msg).hh := rfl
@[simp] theorem State.emitFrom_token (s : State) (msg : List Byte) : (s.emitFrom msg).token = tokenText (s.sha.run msg).hh := rfl
@[simp] theorem State.emitFrom_ibuf (s : State) (msg : List Byte) : (s.emitFrom msg).ibuf = s.ibuf := rfl
@[simp] theorem State.emitFrom_mixer (s : State) (msg : List Byte) : (s.emitFrom msg).mixer = s.mixer := rfl
@[simp] theorem State.emitFrom_xt (s : State) (msg : List Byte) : (s.emitFrom msg).xt = s.xt := rfl
@[simp] theorem State.emitFrom_idx (s : State) (msg : List Byte) : (s.emitFrom msg).idx = s.idx := rfl
@[simp] theorem State.emitFrom_msg (s : State) (msg : List Byte) : (s.emitFrom msg).msg = msg := rfl
@[simp] theorem State.emitFrom_dec (s : State) (msg : List Byte) : (s.emitFrom msg).dec = s.dec := rfl
@[simp] theorem State.emitFrom_dlen (s : State) (msg : List Byte) : (s.emitFrom msg).dlen = s.dlen := rfl
@[simp] theorem State.emitFrom_sha (s : State) (msg : List Byte) : (s.emitFrom msg).sha = s.sha.run msg := rfl
@[simp] theorem State.emitFrom_uop (s : State) (msg : List Byte) : (s.emitFrom msg).uop = s.uop := rfl
@[simp] theorem State.emitFrom_host (s : State) (msg : List Byte) : (s.emitFrom msg).host = s.host := rfl
@[simp] theorem State.emitFrom_reads (s : State) (msg : List Byte) : (s.emitFrom msg).reads = s.reads := rfl
@[simp] theorem State.emitFrom_draws (s : State) (msg : List Byte) : (s.emitFrom msg).draws = s.draws := rfl
@[simp] theorem State.emitFrom_resets (s : State) (msg : List Byte) : (s.emitFrom msg).resets = s.resets := rfl

/-! ## `State.afterReset` -/

@[simp] theorem State.afterReset_cfg (c : Cfg) (n : Nat) : (State.afterReset c n).cfg = c := rfl
@[simp] theorem State.afterReset_cand (c : Cfg) (n : Nat) : (State.afterReset c n).cand = Config.resetCand n := rfl
@[simp] theorem State.afterReset_ilen (c : Cfg) (n : Nat) : (State.afterReset c n).ilen = 0 := rfl
@[simp] theorem State.afterReset_key (c : Cfg) (n : Nat) : (State.afterReset c n).key = Config.resetKey n := rfl
@[simp] theorem State.afterReset_c1 (c : Cfg) (n : Nat) : (State.afterReset c n).c1 = Config.resetC1 n := rfl
@[simp] theorem State.afterReset_c2 (c : Cfg) (n : Nat) : (State.afterReset c n).c2 = Config.resetC2 n := rfl
@[simp] theorem State.afterReset_ibuf (c : Cfg) (n : Nat) : (State.afterReset c n).ibuf = [] := rfl
@[simp] theorem State.afterReset_uop (c : Cfg) (n : Nat) : (State.afterReset c n).uop = none := rfl
@[simp] theorem State.afterReset_host (c : Cfg) (n : Nat) : (State.afterReset c n).host = [] := rfl
@[simp] theorem State.afterReset_reads (c : Cfg) (n : Nat) : (State.afterReset c n).reads = [] := rfl
@[simp] theorem State.afterReset_draws (c : Cfg) (n : Nat) : (State.afterReset c n).draws = 0 := rfl
@[simp] theorem State.afterReset_resets (c : Cfg) (n : Nat) : (State.afterReset c n).resets = n := rfl
@[simp] theorem State.afterReset_status_refv (c : Cfg) (n : Nat) : (State.afterReset c n).status.refv = false := rfl
@[simp] theorem State.afterReset_status_vv (c : Cfg) (n : Nat) : (State.afterReset c n).status.vv = false := rfl
@[simp] theorem State.afterReset_status_verdict (c : Cfg) (n : Nat) : (State.afterReset c n).status.verdict = false := rfl
@[simp] theorem State.afterReset_status_vpol (c : Cfg) (n : Nat) : (State.afterReset c n).status.vpol = false := rfl
@[simp] theorem State.afterReset_status_dv (c : Cfg) (n : Nat) : (State.afterReset c n).status.dv = false := rfl
@[simp] theorem State.afterReset_status_tv (c : Cfg) (n : Nat) : (State.afterReset c n).status.tv = false := rfl
@[simp] theorem State.afterReset_status_err (c : Cfg) (n : Nat) : (State.afterReset c n).status.err = false := rfl
@[simp] theorem State.afterReset_status_cause (c : Cfg) (n : Nat) : (State.afterReset c n).status.cause = .none := rfl

end Sys2Proof.Machine
end

