-- ==== Sys2Proof/Laws/Encoding.lean ====
section
/-! SUPPORT. The fields of a micro-op word put together by the encoder (R75). -/

namespace Sys2Proof

/-- Every bit of a format M word (R75). -/
theorem microWord_getLsbD (mop : BitVec 8) (amt : BitVec 5) (imm : Word) (k : Nat) :
    (microWord mop amt imm).getLsbD k =
      if k < 32 then imm.getLsbD k
      else if k < 48 then false
      else if k < 53 then amt.getLsbD (k - 48)
      else if k < 56 then false
      else mop.getLsbD (k - 56) := by
  have h : (microWord mop amt imm).getLsbD k = (mop ++ (0 : BitVec 3) ++ amt ++ (0 : BitVec 16) ++ imm).getLsbD k := rfl
  rw [h]
  simp only [BitVec.getLsbD_append]
  by_cases h1 : k < 32
  · simp only [h1, if_true]
  by_cases h2 : k < 48
  · rw [if_neg h1, if_neg h1, if_pos h2, if_pos (by omega)]
    simp
  by_cases h3 : k < 53
  · rw [if_neg h1, if_neg h1, if_neg h2, if_pos h3, if_neg (by omega), if_pos (by omega), Nat.sub_sub]
  by_cases h4 : k < 56
  · rw [if_neg h1, if_neg h1, if_neg h2, if_neg h3, if_pos h4, if_neg (by omega), if_neg (by omega), if_pos (by omega)]
    simp
  · rw [if_neg h1, if_neg h1, if_neg h2, if_neg h3, if_neg h4, if_neg (by omega), if_neg (by omega), if_neg (by omega),
      Nat.sub_sub, Nat.sub_sub, Nat.sub_sub]

theorem uMop_microWord (mop : BitVec 8) (amt : BitVec 5) (imm : Word) : uMop (microWord mop amt imm) = mop := by
  ext i hi
  rw [uMop, BitVec.getElem_extractLsb', microWord_getLsbD, if_neg (by omega), if_neg (by omega), if_neg (by omega),
    if_neg (by omega), Nat.add_sub_cancel_left, BitVec.getLsbD_eq_getElem hi]

theorem uZ1_microWord (mop : BitVec 8) (amt : BitVec 5) (imm : Word) : uZ1 (microWord mop amt imm) = 0 := by
  ext i hi
  rw [uZ1, BitVec.getElem_extractLsb', microWord_getLsbD, if_neg (by omega), if_neg (by omega), if_neg (by omega),
    if_pos (by omega)]
  simp

theorem uAmt_microWord (mop : BitVec 8) (amt : BitVec 5) (imm : Word) : uAmt (microWord mop amt imm) = amt := by
  ext i hi
  rw [uAmt, BitVec.getElem_extractLsb', microWord_getLsbD, if_neg (by omega), if_neg (by omega), if_pos (by omega),
    Nat.add_sub_cancel_left, BitVec.getLsbD_eq_getElem hi]

theorem uZ2_microWord (mop : BitVec 8) (amt : BitVec 5) (imm : Word) : uZ2 (microWord mop amt imm) = 0 := by
  ext i hi
  rw [uZ2, BitVec.getElem_extractLsb', microWord_getLsbD, if_neg (by omega), if_pos (by omega)]
  simp

theorem uImm_microWord (mop : BitVec 8) (amt : BitVec 5) (imm : Word) : uImm (microWord mop amt imm) = imm := by
  ext i hi
  rw [uImm, BitVec.getElem_extractLsb', microWord_getLsbD, if_pos (by omega), Nat.zero_add, BitVec.getLsbD_eq_getElem hi]

end Sys2Proof
end

