-- ==== Sys2Proof/Laws/Memory.lean ====
section
/-! SUPPORT. The written cells: a read after a write, the canonical form, and the input bytes. -/

namespace Sys2Proof.Machine

/-! ## The canonical form -/

theorem Memory.wfFrom_mono {lo lo' : Nat} {m : Memory} (h : lo' ≤ lo) (hm : Memory.wfFrom lo m = true) :
    Memory.wfFrom lo' m = true := by
  cases m with
  | nil => rfl
  | cons cell rest =>
    obtain ⟨k, b⟩ := cell
    simp only [Memory.wfFrom, Bool.and_eq_true, decide_eq_true_eq] at hm ⊢
    exact ⟨le_trans h hm.1, hm.2⟩

theorem Memory.write_wfFrom {lo a : Nat} {b : Byte} (h : lo ≤ a) {m : Memory} (hm : Memory.wfFrom lo m = true) :
    Memory.wfFrom lo (Memory.write m a b) = true := by
  induction m generalizing lo with
  | nil => simp [Memory.write, Memory.wfFrom, h]
  | cons cell rest ih =>
    obtain ⟨k, c⟩ := cell
    simp only [Memory.wfFrom, Bool.and_eq_true, decide_eq_true_eq] at hm
    unfold Memory.write
    split
    · subst k; simp [Memory.wfFrom, h, hm.2]
    · split
      · simp only [Memory.wfFrom, Bool.and_eq_true, decide_eq_true_eq]
        exact ⟨h, by omega, hm.2⟩
      · simp only [Memory.wfFrom, Bool.and_eq_true, decide_eq_true_eq]
        exact ⟨hm.1, ih (by omega) hm.2⟩

/-- A write keeps the canonical form. -/
theorem Memory.write_wf (a : Nat) (b : Byte) {m : Memory} (hm : Memory.wf m = true) : Memory.wf (Memory.write m a b) = true :=
  Memory.write_wfFrom (Nat.zero_le a) hm

/-- A write below the bound keeps every cell below the bound. -/
theorem Memory.write_below {a n : Nat} (h : a < n) (b : Byte) {m : Memory} (hm : Memory.below m n = true) :
    Memory.below (Memory.write m a b) n = true := by
  induction m with
  | nil => simp [Memory.write, Memory.below, h]
  | cons cell rest ih =>
    obtain ⟨k, c⟩ := cell
    simp only [Memory.below, List.all_cons, Bool.and_eq_true, decide_eq_true_eq] at hm ih
    unfold Memory.write
    split
    · simpa [Memory.below, h] using hm.2
    · split
      · simpa [Memory.below, h, hm.1] using hm.2
      · simpa [Memory.below, hm.1] using ih hm.2

theorem Memory.wf_nil : Memory.wf [] = true := rfl

/-- The memory of the machine at reset is in canonical form. -/
theorem State.reset_ibuf_wf : Memory.wf State.reset.ibuf = true := rfl

theorem Memory.below_nil (n : Nat) : Memory.below [] n = true := rfl

/-! ## Read after write -/

theorem Memory.read_eq_none_of_lt {lo a : Nat} (h : a < lo) {m : Memory} (hm : Memory.wfFrom lo m = true) :
    Memory.read m a = none := by
  cases m with
  | nil => rfl
  | cons cell rest =>
    obtain ⟨k, b⟩ := cell
    simp only [Memory.wfFrom, Bool.and_eq_true, decide_eq_true_eq] at hm
    unfold Memory.read
    split
    · omega
    · split
      · rfl
      · omega

/-- The byte just written is read. -/
@[simp] theorem Memory.read_write_same (m : Memory) (a : Nat) (b : Byte) : Memory.read (Memory.write m a b) a = some b := by
  induction m with
  | nil => simp [Memory.write, Memory.read]
  | cons cell rest ih =>
    obtain ⟨k, c⟩ := cell
    unfold Memory.write
    split
    · simp [Memory.read]
    · split
      · simp [Memory.read]
      · next h1 h2 => simp [Memory.read, h1, h2, ih]

/-- A write leaves every other address as it was. -/
theorem Memory.read_write_other (m : Memory) {a a' : Nat} (b : Byte) (h : a' ≠ a) :
    Memory.read (Memory.write m a b) a' = Memory.read m a' := by
  induction m with
  | nil =>
    simp only [Memory.write, Memory.read]
    rw [if_neg (Ne.symm h)]
    split <;> rfl
  | cons cell rest ih =>
    obtain ⟨k, c⟩ := cell
    unfold Memory.write
    split
    · subst k
      simp only [Memory.read, if_neg (Ne.symm h)]
    · split
      · simp only [Memory.read, if_neg (Ne.symm h)]
        split
        · rw [if_neg (by omega), if_pos (by omega)]
        · rfl
      · simp only [Memory.read, ih]

/-! ## The input bytes -/

@[simp] theorem State.ibufByte_storeIbuf_same (s : State) (i : Nat) (b : Byte) : (s.storeIbuf i b).ibufByte i = b := by
  simp [State.ibufByte]

theorem State.ibufByte_storeIbuf_other (s : State) {i j : Nat} (b : Byte) (h : j ≠ i) :
    (s.storeIbuf i b).ibufByte j = s.ibufByte j := by
  simp [State.ibufByte, Memory.read_write_other _ _ h]

/-- Byte `k` of `IBUF[i..i+n-1]`. -/
theorem State.ibufFrom_get (s : State) (i n k : Nat) (h : k < n) :
    (s.ibufFrom i n)[k]'(by rw [ibufFrom_length]; exact h) = s.ibufByte (i + k) := by
  induction n generalizing i k with
  | zero => omega
  | succ n ih =>
    cases k with
    | zero => simp [State.ibufFrom]
    | succ k =>
      simp only [State.ibufFrom, List.getElem_cons_succ]
      rw [ih (i + 1) k (by omega)]
      congr 1
      omega

@[simp] theorem State.input_length (s : State) : s.input.length = s.ilen.toNat := ibufFrom_length s 0 _

/-- The input bytes read the cells of `IBUF`, the length and the contents after Reset, and nothing else. -/
theorem State.ibufFrom_congr {s t : State} (h : ∀ k, s.ibufByte k = t.ibufByte k) (i n : Nat) : s.ibufFrom i n = t.ibufFrom i n := by
  induction n generalizing i with
  | zero => rfl
  | succ n ih => simp [State.ibufFrom, h, ih]

/-- The input is determined by `ILEN`, the written cells and the Reset they date from. -/
theorem State.input_congr {s t : State} (hl : s.ilen = t.ilen) (hm : s.ibuf = t.ibuf) (hr : s.resets = t.resets) :
    s.input = t.input := by
  unfold State.input
  rw [hl]
  exact State.ibufFrom_congr (fun k => by simp only [State.ibufByte, hm, hr]) _ _

end Sys2Proof.Machine
end

