-- ==== Sys2Proof/Laws/Mixer.lean ====
section
/-! SUPPORT. What decoding a micro-op word can give, and what a stage evaluation leaves in the mixer. -/

namespace Sys2Proof.Machine

/-- A decoded micro-op is well formed and no command. -/
theorem decodeMicro_sound {u : MicroWord} {i : Instr} (h : decodeMicro u = some i) : i.wf = true ∧ i.isCommand = false := by
  unfold decodeMicro at h
  split at h
  · rw [Option.filter_eq_some_iff] at h
    refine ⟨h.2, ?_⟩
    have hm := h.1
    unfold microOf at hm
    repeat' split at hm
    all_goals first | (cases hm; rfl) | exact absurd hm (by simp)
  · cases h

/-- A decoded command is a command. -/
theorem decodeCommand_sound {w : Word} {i : Instr} (h : decodeCommand w = some i) : i.isCommand = true := by
  unfold decodeCommand at h
  split at h
  · unfold commandOf at h
    repeat' split at h
    all_goals first | (cases h; rfl) | exact absurd h (by simp)
  · cases h

/-- A micro-op executes as `runMicro`. -/
theorem exec_micro {i : Instr} (h : i.isCommand = false) (s : State) : exec i s = runMicro i s := by
  cases i <;> first | rfl | simp [Instr.isCommand] at h

/-- A well-formed micro-op applies its function to `MX` and changes nothing else (R100). -/
theorem exec_micro_next {i : Instr} (h : i.isCommand = false) (hw : i.wf = true) (s : State) :
    exec i s = .next { s with mixer := { s.mixer with mx := microOp i s.mixer.mx } } := by
  rw [exec_micro h, runMicro, if_pos hw]

/-- A stage evaluation leaves its result in `MX` and the slot counter past the last slot, whatever the mixer held. -/
theorem Mixer.stage_eq (r : StageRom) (x : Word) (m : Mixer) : Mixer.stage r x m = { mx := stageEval r x, slot := 3 } := rfl

@[simp] theorem Mixer.stage_mx (r : StageRom) (x : Word) (m : Mixer) : (Mixer.stage r x m).mx = stageEval r x := rfl

/-- The three slots of a stage in order (R110). -/
theorem stageEval_eq (r : StageRom) (x : Word) : stageEval r x = microWordFn r.w2 (microWordFn r.w1 (microWordFn r.w0 x)) := rfl

/-- What a ROM word that spells `i` does to the word in the mixer. -/
theorem microWordFn_eq {u : MicroWord} {i : Instr} (h : decodeMicro u = some i) (x : Word) : microWordFn u x = microOp i x := by
  simp [microWordFn, h]

end Sys2Proof.Machine
end

