-- ==== Sys2Proof/Laws/Sha.lean ====
section
/-! SUPPORT. The digest engine: how long its sequences are, what rounds and blocks do to the counters, and that no result depends on what the working storage held before. -/

namespace Sys2Proof.Machine

/-! ## Lengths and texts -/

@[simp] theorem lengthBytes_length (l : BitVec 64) : (lengthBytes l).length = 8 := rfl

theorem pad_length (msg : List Byte) : (pad msg).length = msg.length + 1 + padZeros msg.length + 8 := by
  simp [pad]
  omega

@[simp] theorem hexText_toList (d : Chain) : (hexText d).toList = hexRender d := rfl

@[simp] theorem tokenText_toList (d : Chain) : (tokenText d).toList = tokenWrap (hexRender d) := rfl

@[simp] theorem scheduleVec_toList (b : List Byte) : (scheduleVec b).toList = schedule b := rfl

/-! ## Rounds -/

/-- The first of `n + 1` rounds. -/
theorem ShaRegs.rounds_first (n : Nat) (r : ShaRegs) : ShaRegs.rounds (n + 1) r = ShaRegs.rounds n r.round := rfl

/-- A round after `n` rounds is round `n + 1`. -/
theorem ShaRegs.rounds_succ (n : Nat) (r : ShaRegs) : ShaRegs.rounds (n + 1) r = (ShaRegs.rounds n r).round := by
  induction n generalizing r with
  | zero => rfl
  | succ n ih => exact ih r.round

/-- Rounds advance the round counter and leave the chaining state, the schedule, the message and the block counter alone. -/
theorem ShaRegs.rounds_frame (n : Nat) (r : ShaRegs) :
    (ShaRegs.rounds n r).t = r.t + n ∧ (ShaRegs.rounds n r).hh = r.hh ∧ (ShaRegs.rounds n r).w = r.w ∧
      (ShaRegs.rounds n r).pm = r.pm ∧ (ShaRegs.rounds n r).blk = r.blk := by
  induction n with
  | zero => exact ⟨rfl, rfl, rfl, rfl, rfl⟩
  | succ n ih =>
    rw [ShaRegs.rounds_succ]
    exact ⟨by simp [ShaRegs.round, ih.1]; omega, ih.2.1, ih.2.2.1, ih.2.2.2.1, ih.2.2.2.2⟩

/-! ## Blocks -/

/-- A block after `n` blocks is block `n + 1`. -/
theorem ShaRegs.blocks_succ (n : Nat) (r : ShaRegs) : ShaRegs.blocks (n + 1) r = (ShaRegs.blocks n r).block := by
  induction n generalizing r with
  | zero => rfl
  | succ n ih => exact ih r.block

@[simp] theorem ShaRegs.accumulate_blk (r : ShaRegs) : r.accumulate.blk = r.blk + 1 := rfl
@[simp] theorem ShaRegs.accumulate_pm (r : ShaRegs) : r.accumulate.pm = r.pm := rfl
@[simp] theorem ShaRegs.loadBlock_blk (r : ShaRegs) : r.loadBlock.blk = r.blk := rfl
@[simp] theorem ShaRegs.loadBlock_pm (r : ShaRegs) : r.loadBlock.pm = r.pm := rfl
@[simp] theorem ShaRegs.loadBlock_hh (r : ShaRegs) : r.loadBlock.hh = r.hh := rfl
@[simp] theorem ShaRegs.loadBlock_t (r : ShaRegs) : r.loadBlock.t = 0 := rfl
@[simp] theorem ShaRegs.loadBlock_w (r : ShaRegs) : r.loadBlock.w = scheduleVec (blockBytes r.pm r.blk) := rfl

/-- A block advances the block counter and leaves the message alone. -/
theorem ShaRegs.block_frame (r : ShaRegs) : r.block.blk = r.blk + 1 ∧ r.block.pm = r.pm := by
  have h := ShaRegs.rounds_frame 64 r.loadBlock
  constructor
  · rw [ShaRegs.block, ShaRegs.accumulate_blk, h.2.2.2.2, ShaRegs.loadBlock_blk]
  · rw [ShaRegs.block, ShaRegs.accumulate_pm, h.2.2.2.1, ShaRegs.loadBlock_pm]

/-- The first round after loading a block does not see `T1` and `T2`, the only storage loading leaves as it was. -/
theorem ShaRegs.round_loadBlock_congr {r r' : ShaRegs} (hp : r.pm = r'.pm) (hb : r.blk = r'.blk) (hh : r.hh = r'.hh) :
    r.loadBlock.round = r'.loadBlock.round := by
  simp [ShaRegs.loadBlock, ShaRegs.round, ShaRegs.nextT1, ShaRegs.nextT2, hp, hb, hh]

/-- A block is determined by the message, the block counter and the chaining state. -/
theorem ShaRegs.block_congr {r r' : ShaRegs} (hp : r.pm = r'.pm) (hb : r.blk = r'.blk) (hh : r.hh = r'.hh) :
    r.block = r'.block := by
  rw [ShaRegs.block, ShaRegs.block, ShaRegs.rounds_first 63, ShaRegs.rounds_first 63, ShaRegs.round_loadBlock_congr hp hb hh]

theorem padded_blocks_pos (msg : List Byte) : 0 < (pad msg).length / 64 := by
  rw [pad_length]
  unfold padZeros
  omega

/-- The spec lemma of a digest: what the working storage holds after it is determined by the message (R31). -/
theorem ShaRegs.run_congr (msg : List Byte) (r r' : ShaRegs) : r.run msg = r'.run msg := by
  unfold ShaRegs.run
  obtain ⟨n, hn⟩ := Nat.exists_eq_succ_of_ne_zero (Nat.pos_iff_ne_zero.mp (padded_blocks_pos msg))
  rw [hn]
  show ShaRegs.blocks n (r.start msg).block = ShaRegs.blocks n (r'.start msg).block
  rw [ShaRegs.block_congr (r := r.start msg) (r' := r'.start msg) rfl rfl rfl]

/-- The chaining state after a digest is `Sha(msg)` (R166). -/
theorem ShaRegs.run_hh (msg : List Byte) (r : ShaRegs) : (r.run msg).hh = sha msg := by
  rw [sha, ShaRegs.run_congr msg r ShaRegs.initial]

end Sys2Proof.Machine
end

