-- ==== Sys2Proof/Laws/Exec.lean ====
section
/-! SUPPORT. What each command and each shared operation of the bus can do, said once. -/

namespace Sys2Proof.Machine

/-! ## Commands -/

theorem execVerifyA_of_refv {s : State} (h : s.status.refv = true) :
    execVerifyA s = .next
      { s with
        mixer := Mixer.stage s.cfg.rom3 (stage2 s.cfg (stage1 s.cfg s.cand)) s.mixer
        status := s.status.setVerdict false ((pipeline s.cfg s.cand ^^^ s.key) == (s.c1 ^^^ s.c2)) } := by
  rw [execVerifyA, if_pos h]
  rfl

theorem execVerifyA_of_not_refv {s : State} (h : s.status.refv = false) :
    execVerifyA s = .next (raiseFault .notDerived s) := by
  simp [execVerifyA, h]

theorem execVerifyB_of_not_refv {s : State} (h : s.status.refv = false) :
    execVerifyB s = .next (raiseFault .notDerived s) := by
  simp [execVerifyB, h]

theorem execVerifyB_of_length {s : State} (h : s.status.refv = true) (hl : s.ilen = 16) :
    execVerifyB s = .next
      { s with
        xt := s.transformed
        idx := 16
        status := s.status.setVerdict true (s.transformed.toList == tgtTable.toList) } := by
  rw [execVerifyB, if_pos h, if_pos hl]

theorem execVerifyB_of_other_length {s : State} (h : s.status.refv = true) (hl : s.ilen ≠ 16) :
    execVerifyB s = .next { s with status := s.status.setVerdict true false } := by
  rw [execVerifyB, if_pos h, if_neg hl]

/-- What a command can do: its own effect behind its gate, or the fault of its gate. -/
theorem exec_command_cases {i : Instr} {s t : State} (hc : i.isCommand = true) (h : exec i s = .next t) :
    (t = raiseFault .notDerived s ∧ (i = .verifyA ∨ i = .verifyB) ∧ s.status.refv = false) ∨
    (t = raiseFault .notAccepted s ∧
      ((i = .emitA ∧ s.status.accepted false = false) ∨ (i = .emitB ∧ s.status.accepted true = false))) ∨
    (i = .derive ∧
      t = { s with
        key := refKey s.cfg, c1 := refC1 s.cfg, c2 := refC2 s.cfg
        mixer := Mixer.stage s.cfg.rom3 (refC1 s.cfg) s.mixer
        status := s.status.setRefv }) ∨
    (i = .verifyA ∧ s.status.refv = true ∧
      t = { s with
        mixer := Mixer.stage s.cfg.rom3 (stage2 s.cfg (stage1 s.cfg s.cand)) s.mixer
        status := s.status.setVerdict false ((pipeline s.cfg s.cand ^^^ s.key) == (s.c1 ^^^ s.c2)) }) ∨
    (i = .verifyB ∧ s.status.refv = true ∧ s.ilen = 16 ∧
      t = { s with
        xt := s.transformed, idx := 16
        status := s.status.setVerdict true (s.transformed.toList == tgtTable.toList) }) ∨
    (i = .verifyB ∧ s.status.refv = true ∧ s.ilen ≠ 16 ∧ t = { s with status := s.status.setVerdict true false }) ∨
    (i = .emitA ∧ s.status.accepted false = true ∧
      t = { s.emitFrom (decRender s.cand) with
        dec := overlay s.dec (decRender s.cand), dlen := (decRender s.cand).length }) ∨
    (i = .emitB ∧ s.status.accepted true = true ∧ t = s.emitFrom s.input) ∨
    (i = .digest ∧ t = { s.digestInto s.input with status := s.status.setDv }) := by
  cases i with
  | derive => cases h; simp
  | verifyA =>
    cases hr : s.status.refv with
    | false => rw [exec, execVerifyA_of_not_refv hr] at h; cases h; simp
    | true => rw [exec, execVerifyA_of_refv hr] at h; cases h; simp
  | verifyB =>
    cases hr : s.status.refv with
    | false => rw [exec, execVerifyB_of_not_refv hr] at h; cases h; simp
    | true =>
      by_cases hl : s.ilen = 16
      · rw [exec, execVerifyB_of_length hr hl] at h; cases h; exact Or.inr (Or.inr (Or.inr (Or.inr (Or.inl ⟨rfl, rfl, hl, rfl⟩))))
      · rw [exec, execVerifyB_of_other_length hr hl] at h
        cases h
        exact Or.inr (Or.inr (Or.inr (Or.inr (Or.inr (Or.inl ⟨rfl, rfl, hl, rfl⟩)))))
  | emitA =>
    cases ha : s.status.accepted false <;> simp [exec, execEmitA, ha] at h <;> simp [← h]
  | emitB =>
    cases ha : s.status.accepted true <;> simp [exec, execEmitB, ha] at h <;> simp [← h]
  | digest => cases h; simp
  | _ => simp [Instr.isCommand] at hc

/-- A command always answers a next state. -/
theorem exec_command_next {i : Instr} (hc : i.isCommand = true) (s : State) : ∃ t, exec i s = .next t := by
  cases i with
  | derive => exact ⟨_, rfl⟩
  | digest => exact ⟨_, rfl⟩
  | verifyA => cases hr : s.status.refv <;> simp [exec, execVerifyA, hr]
  | verifyB =>
    cases hr : s.status.refv
    · exact ⟨_, execVerifyB_of_not_refv hr⟩
    · by_cases hl : s.ilen = 16
      · exact ⟨_, execVerifyB_of_length hr hl⟩
      · exact ⟨_, execVerifyB_of_other_length hr hl⟩
  | emitA => cases ha : s.status.accepted false <;> simp [exec, execEmitA, ha]
  | emitB => cases ha : s.status.accepted true <;> simp [exec, execEmitB, ha]
  | _ => simp [Instr.isCommand] at hc

/-! ## Writes -/

/-- The register map's entry for `IBUF` lies inside the buffer. -/
theorem locate_ibuf {n offset : Nat} {w : Width} {i : Nat} (h : locate n offset w = .ibuf i) : i < n ∧ offset = 0x200 + i := by
  cases w
  · simp only [locate, locateByte] at h
    repeat' split at h
    all_goals simp at h
    omega
  · simp [locate] at h
  · simp only [locate, locateWord] at h
    repeat' split at h
    all_goals simp at h
  · simp [locate] at h

/-- What a write can do (R196): it is ignored, it faults, it stores an input, or it issues a command. -/
theorem hostWrite_cases {offset : Nat} {d : Datum} {s t : State} (h : hostWrite offset d s = .next t) :
    (s.status.err = true ∧ t = s) ∨
    (s.status.err = false ∧
      ((∃ c, c ≠ .none ∧ t = raiseFault c s) ∨
      (∃ v, t = s.storeCand v) ∨
      (∃ v, v.toNat ≤ s.cfg.ibufMax ∧ t = s.storeIlen v) ∨
      (∃ i b, i < s.cfg.ibufMax ∧ t = s.storeIbuf i b) ∨
      (∃ w i, locate s.cfg.ibufMax offset d.width = .cmd ∧ d = .word w ∧ decodeCommand w = some i ∧ exec i s = .next t))) := by
  unfold hostWrite at h
  cases he : s.status.err with
  | true => rw [if_pos he] at h; cases h; simp
  | false =>
    rw [if_neg (by simp [he])] at h
    refine Or.inr ⟨rfl, ?_⟩
    unfold writeTarget at h
    split at h
    · next w hl =>
      unfold issue at h
      split at h
      · next i hd => exact Or.inr (Or.inr (Or.inr (Or.inr ⟨w, i, hl, rfl, hd, h⟩)))
      · cases h; exact Or.inl ⟨_, by simp, rfl⟩
    · next v hl =>
      cases h
      unfold writeIlen
      split
      · exact Or.inl ⟨_, by simp, rfl⟩
      · exact Or.inr (Or.inr (Or.inl ⟨v, by omega, rfl⟩))
    · next v hl => cases h; exact Or.inr (Or.inl ⟨v, rfl⟩)
    · next i b hl =>
      cases h
      exact Or.inr (Or.inr (Or.inr (Or.inl ⟨i, b, (locate_ibuf hl).1, rfl⟩)))
    · cases h; exact Or.inl ⟨_, by simp, rfl⟩

/-! ## Reads and Reset -/

/-- A read changes the host's record and the count of unspecified answers, and nothing of the engine (R28). -/
theorem hostRead_eq (offset : Nat) (w : Width) (s : State) :
    ∃ v n, hostRead offset w s = { s with reads := v :: s.reads, draws := n } := by
  unfold hostRead
  split
  · exact ⟨_, s.draws, rfl⟩
  · exact ⟨_, _, rfl⟩

end Sys2Proof.Machine
end

