-- ==== Sys2Proof/Laws/PerInstr.lean ====
section
/-! SUPPORT. A statement about every instruction as syntax: its word matches its row of the opcode table (the match and mask columns of R73 and R76). -/

namespace Sys2Proof.Laws.TableRow

/-- The word of the instruction, under the mask of its row, is the row's match, and its free fields hold the instruction's operands. -/
def Statement (i : Instr) : Prop :=
  (encode i).bits &&& i.tableRow.2 = i.tableRow.1 ∧ i.operandsAre (encode i).bits = true

theorem derive : Statement .derive := by unfold Statement; decide
theorem verifyA : Statement .verifyA := by unfold Statement; decide
theorem verifyB : Statement .verifyB := by unfold Statement; decide
theorem emitA : Statement .emitA := by unfold Statement; decide
theorem emitB : Statement .emitB := by unfold Statement; decide
theorem digest : Statement .digest := by unfold Statement; decide
theorem mnop : Statement .mnop := by unfold Statement; decide

theorem rotl (n : BitVec 5) : Statement (.rotl n) := by
  refine ⟨?_, ?_⟩
  · revert n; decide
  · revert n; decide

theorem rotr (n : BitVec 5) : Statement (.rotr n) := by
  refine ⟨?_, ?_⟩
  · revert n; decide
  · revert n; decide

theorem swaph : Statement .swaph := by unfold Statement; decide
theorem bswap : Statement .bswap := by unfold Statement; decide

theorem swapg (m : Word) (s : BitVec 5) : Statement (.swapg m s) := by
  refine ⟨?_, ?_⟩
  · simp only [encode, CodeWord.bits, Instr.tableRow]
    ext i hi
    rw [← BitVec.getLsbD_eq_getElem hi, BitVec.getLsbD_and, microWord_getLsbD]
    interval_cases i <;> simp
  · simp [encode, CodeWord.bits, Instr.operandsAre, uAmt_microWord, uImm_microWord]

theorem xorc (c : Word) : Statement (.xorc c) := by
  refine ⟨?_, ?_⟩
  · simp only [encode, CodeWord.bits, Instr.tableRow]
    ext i hi
    rw [← BitVec.getLsbD_eq_getElem hi, BitVec.getLsbD_and, microWord_getLsbD]
    interval_cases i <;> simp
  · simp [encode, CodeWord.bits, Instr.operandsAre, uImm_microWord]

theorem mulc (c : Word) : Statement (.mulc c) := by
  refine ⟨?_, ?_⟩
  · simp only [encode, CodeWord.bits, Instr.tableRow]
    ext i hi
    rw [← BitVec.getLsbD_eq_getElem hi, BitVec.getLsbD_and, microWord_getLsbD]
    interval_cases i <;> simp
  · simp [encode, CodeWord.bits, Instr.operandsAre, uImm_microWord]

end Sys2Proof.Laws.TableRow
end

