-- ==== Sys2Proof/Laws/Step.lean ====
section
/-! SUPPORT. What a step can do, said once: every invariant is derived from this. -/

namespace Sys2Proof.Machine

/-- One step: a micro-op of the mixer, the engine waiting, a Reset, a read, or a write. -/
theorem step_cases {s t : State} (h : step s = .next t) :
    (∃ u i, s.uop = some u ∧ decodeMicro u = some i ∧
      t = { s with uop := none, mixer := { s.mixer with mx := microOp i s.mixer.mx } }) ∨
    (s.uop = none ∧ s.host = [] ∧ t = s) ∨
    (∃ rest, NextEvent s .reset rest ∧ t = resetEngine { s with host := rest }) ∨
    (∃ offset w rest, NextEvent s (.read offset w) rest ∧ t = hostRead offset w { s with host := rest }) ∨
    (∃ offset d rest, NextEvent s (.write offset d) rest ∧ hostWrite offset d { s with host := rest } = .next t) := by
  unfold step stepOnce at h
  cases hu : s.uop with
  | some u =>
    simp only [hu, runMicroWord, decode] at h
    split at h
    · next i hd =>
      have hs := decodeMicro_sound hd
      rw [exec_micro_next hs.2 hs.1] at h
      cases h
      exact Or.inl ⟨u, i, rfl, hd, rfl⟩
    · cases h
  | none =>
    simp only [hu] at h
    cases hh : s.host with
    | nil => simp only [hh] at h; cases h; exact Or.inr (Or.inl ⟨rfl, rfl, rfl⟩)
    | cons e rest =>
      simp only [hh] at h
      cases e with
      | reset =>
        cases h
        exact Or.inr (Or.inr (Or.inl ⟨rest, ⟨hu, hh⟩, rfl⟩))
      | read offset w =>
        cases h
        exact Or.inr (Or.inr (Or.inr (Or.inl ⟨offset, w, rest, ⟨hu, hh⟩, rfl⟩)))
      | write offset d =>
        exact Or.inr (Or.inr (Or.inr (Or.inr ⟨offset, d, rest, ⟨hu, hh⟩, h⟩)))

/-- The step that carries out a host event. -/
theorem step_of_nextEvent {s : State} {e : HostEvent} {rest : List HostEvent} (h : NextEvent s e rest) :
    step s = hostEvent e { s with host := rest } := by
  simp [step, stepOnce, h.1, h.2]

end Sys2Proof.Machine
end

