-- ==== Sys2Proof/Machine/Script.lean ====
section
/-! DEFINITION. The host scripts of R83: one host event per line, and the four pseudo-instructions with their expansions. -/

namespace Sys2Proof.Machine

/-- `RESET`. -/
def scriptReset : HostEvent := .reset

/-- `WR CAND, v`. -/
def scriptWrCand (v : Word) : HostEvent := .write (Target.offset .cand) (.word v)

/-- `WR ILEN, v`. -/
def scriptWrIlen (v : Word) : HostEvent := .write (Target.offset .ilen) (.word v)

/-- `WR IBUF[i], b`. -/
def scriptWrIbuf (i : Nat) (b : Byte) : HostEvent := .write (Target.offset (.ibuf i)) (.byte b)

/-- `CMD 0x........`: a raw word. -/
def scriptCmdRaw (w : Word) : HostEvent := .write (Target.offset .cmd) (.word w)

/-- `CMD mnemonic`: the word of a command. The host issues no micro-op (R4), so one has no line. -/
def scriptCmd (i : Instr) : Option HostEvent :=
  match encode i with
  | .command w => some (scriptCmdRaw w)
  | .micro _ => none

/-- `RD reg`. -/
def scriptRd (t : Target) : HostEvent := .read t.offset t.width

/-- The writes of a byte sequence to `IBUF[i..]`. -/
def scriptFill (i : Nat) (l : List Byte) : List HostEvent :=
  match l with
  | [] => []
  | b :: rest => scriptWrIbuf i b :: scriptFill (i + 1) rest

/-- `LOADHEX b0 b1 ...`: the bytes, then `WR ILEN, n`. -/
def scriptLoadHex (l : List Byte) : List HostEvent := scriptFill 0 l ++ [scriptWrIlen (BitVec.ofNat 32 l.length)]

/-- `LOADBUF "text"`: each character as its ASCII byte (R15). -/
def scriptLoadBuf (text : String) : List HostEvent := scriptLoadHex (text.toList.map fun c => BitVec.ofNat 8 c.toNat)

/-- `RDHEX`: the 64 characters of `HEX` in order. -/
def scriptRdHex : List HostEvent := (List.finRange 64).map fun i => scriptRd (.hex i)

/-- `RDTOKEN`: the 73 characters of `TOKEN` in order. -/
def scriptRdToken : List HostEvent := (List.finRange 73).map fun i => scriptRd (.token i)

end Sys2Proof.Machine
end

