-- ==== Sys2Proof/Tests/Slice0.lean ====
section
/-! SUPPORT. Tests with expected values from spec/95_test_vectors.md and the rules' own examples, and for every statement with hypotheses a witness that meets them. -/

namespace Sys2Proof.Tests

open Sys2Proof Sys2Proof.Machine

/-! ## Small states -/

/-- The parameters of the illustrative configuration EX1 (95_test_vectors.md section 3). -/
def ex1Data : CfgData where
  rom1 := ⟨0x010D000000000000, 0x06000000A5A5A5A5, 0x070000009E3779B1⟩
  rom2 := ⟨0x0300000000000000, 0x0207000000000000, 0⟩
  rom3 := ⟨0x0400000000000000, 0x060000005F3759DF, 0x050400000F0F0F0F⟩
  ka1 := 0x12345678
  ka2 := 0x9ABCDEF0
  ka3 := 0x0BADF00D
  ka4 := 0xCAFEBABE
  seed := 0xDEADBEEF
  mulb := 0x00003FF9
  addb := 0x00000497
  ibufMax := 63
  base := 0

/-- The configuration EX1. -/
def ex1 : Cfg := { toCfgData := ex1Data, ok := by decide }

/-- EX1 after Reset, `CAND` written with 0. -/
def fresh : State := { State.afterReset ex1 0 with cand := 0 }

/-- The mixer of `fresh` with a word in `MX`. -/
def withMx (x : Word) : State := { fresh with mixer := { mx := x, slot := 0 } }

/-- EX1 after `DERIVE`, the reference values being those of 95_test_vectors.md section 3. -/
def derived : State :=
  { fresh with key := 0xCBE24A35, c1 := 0xD876E027, c2 := 0x4C9FB845, status := { fresh.status with refv := true } }

/-- The accepted word of EX1 in `CAND`. -/
def loadedA : State := { derived with cand := 0xDCB16E67 }

/-- The accepted word of EX1, verified. -/
def acceptedA : State := { loadedA with status := { loadedA.status with vv := true, verdict := true } }

/-- The accepted byte sequence of EX1 (95_test_vectors.md section 5). -/
def acceptedBytes : List Byte :=
  [0x54, 0x41, 0x55, 0x73, 0x34, 0x7C, 0x73, 0x61, 0x38, 0x3F, 0x75, 0x38, 0x73, 0x33, 0x34, 0x45]

/-- The scenario string (95_test_vectors.md section 2). -/
def scenarioBytes : List Byte :=
  [0x41, 0x42, 0x43, 0x44, 0x45, 0x46, 0x47, 0x48, 0x49, 0x4A, 0x4B, 0x4C, 0x4D, 0x4E, 0x4F, 0x50]

/-- The bytes in `IBUF` from index `i` on. -/
def cells (i : Nat) (l : List Byte) : Memory :=
  match l with
  | [] => []
  | b :: rest => (i, b) :: cells (i + 1) rest

/-- A state with bytes in `IBUF` and their number in `ILEN`. -/
def load (l : List Byte) (s : State) : State := { s with ibuf := cells 0 l, ilen := BitVec.ofNat 32 l.length }

/-- The accepted bytes in `IBUF`. -/
def loadedB : State := load acceptedBytes derived

/-- The accepted bytes, verified. -/
def acceptedB : State := { loadedB with status := { loadedB.status with vv := true, verdict := true, vpol := true } }

/-- A stopped engine: `IllegalCommand` after `DERIVE`. -/
def faulted : State := raiseFault .illegalCommand derived

/-- A state with one host event to come. -/
def before (e : HostEvent) (s : State) : State := { s with host := [e] }

/-- A property of the next state. -/
def gives (o : Host.Outcome State Fault Refusal) (p : State → Bool) : Bool :=
  match o with
  | .next t => p t
  | .fault _ => false
  | .refused _ => false

/-- `MX` after one micro-op on `x`. -/
def mxAfter (i : Instr) (x y : Word) : Bool := gives (exec i (withMx x)) (fun t => t.mixer.mx == y)

/-- `STATUS` and `ILEN` after one host event. -/
def statusAfter (e : HostEvent) (s : State) (f v : Word) : Bool :=
  gives (step (before e s)) (fun t => t.status.toWord == f && t.ilen == v)

/-- The characters of a text as bytes (R15). -/
def ascii (text : String) : List Byte := text.toList.map fun c => BitVec.ofNat 8 c.toNat

/-! ## Ill-formed terms are refused (R76, R78, R80, U6) -/

theorem test_wf_rotl_zero : (Instr.rotl 0).wf = false := by decide
theorem test_wf_rotr_zero : (Instr.rotr 0).wf = false := by decide
theorem test_wf_swapg_shift_zero : (Instr.swapg 0x0F0F0F0F 0).wf = false := by decide
theorem test_wf_swapg_mask_zero : (Instr.swapg 0 4).wf = false := by decide
theorem test_wf_swapg_bit_lost : (Instr.swapg 0xF0000000 4).wf = false := by decide
theorem test_wf_swapg_overlap : (Instr.swapg 0x000000FF 4).wf = false := by decide
theorem test_wf_mulc_even : (Instr.mulc 2).wf = false := by decide

/-- The same by the step function: `exec` refuses such operands by name. -/
theorem test_exec_refuses_ill_formed :
    exec (.mulc 2) fresh = .refused .invalidMicroOp ∧ exec (.rotl 0) fresh = .refused .invalidMicroOp := ⟨rfl, rfl⟩

/-- R78: two reserved words of each kind the rule lists. -/
theorem test_reserved_words :
    ([0x0100000000000000, 0x0200000000000000, 0x0120000000000000, 0x0100000100000000, 0x010D000000000001, 0x0301000000000000,
      0x0400000000000001, 0x0000000000000001, 0x0500000000000001, 0x0504000000000000, 0x05040000F0000000, 0x05040000000000FF,
      0x0700000000000002, 0x0601000000000000, 0x0800000000000000, 0xFF00000000000000] : List MicroWord).all
        (fun u => (decodeMicro u).isNone) = true := by decide

/-- R80: a stage of one primitive, of four, or with `MNOP` in it is no stage. -/
theorem test_stage_lists :
    StageRom.ofList [.rotl 13] = none ∧ StageRom.ofList [.swaph, .swaph, .swaph, .swaph] = none ∧
    StageRom.ofList [.mnop, .swaph] = none ∧ StageRom.ofList [.swaph, .mnop, .swaph] = none ∧
    StageRom.ofList [.swaph, .rotl 0] = none ∧ StageRom.ofList [.swaph, .derive] = none ∧
    StageRom.ofList [.swaph, .rotr 7] = some ex1Data.rom2 := by decide

/-- R9: a configuration with an ill-formed stage, or an `IBUF_MAX` out of its range, is refused; EX1 is not. -/
theorem test_cfg_checks :
    (Cfg.ofData { ex1Data with rom1 := ⟨0, 0x0300000000000000, 0⟩ }).isNone = true ∧
    (Cfg.ofData { ex1Data with rom2 := ⟨0x0300000000000000, 0x0300000000000000, 0x0700000000000002⟩ }).isNone = true ∧
    (Cfg.ofData { ex1Data with rom3 := ⟨0x0300000000000000, 0, 0x0300000000000000⟩ }).isNone = true ∧
    (Cfg.ofData { ex1Data with ibufMax := 15 }).isNone = true ∧
    (Cfg.ofData { ex1Data with ibufMax := 2 ^ 61 }).isNone = true ∧
    (Cfg.ofData { ex1Data with ibufMax := 16 }).isSome = true ∧ (Cfg.ofData ex1Data).isSome = true := by decide

/-! ## Decoding: one word of every constructor, written out from the encodings (R72, R73, R75, R76) -/

theorem test_decode_derive : decodeTableWord 32 0b00000000000000000000000000000001 = some .derive := by decide
theorem test_decode_verifyA : decodeTableWord 32 0b00000000000000000000000000000010 = some .verifyA := by decide
theorem test_decode_verifyB : decodeTableWord 32 0b00000000000000000000000000010010 = some .verifyB := by decide
theorem test_decode_emitA : decodeTableWord 32 0b00000000000000000000000000000011 = some .emitA := by decide
theorem test_decode_emitB : decodeTableWord 32 0b00000000000000000000000000010011 = some .emitB := by decide
theorem test_decode_digest : decodeTableWord 32 0b00000000000000000000000000000100 = some .digest := by decide

/-- R74: illegal command words, those next to a legal one among them. -/
theorem test_decode_illegal :
    ([0x00, 0x05, 0x0F, 0x10, 0x11, 0x14, 0x21, 0x80000001, 0xFFFFFFFF] : List Word).all
      (fun w => (decodeCommand w).isNone) = true := by decide

theorem test_decode_mnop : decodeTableWord 64 0 = some .mnop := by decide
theorem test_decode_rotl :
    decodeTableWord 64 0b0000000100011111000000000000000000000000000000000000000000000000 = some (.rotl 31) := by decide
theorem test_decode_rotr :
    decodeTableWord 64 0b0000001000000111000000000000000000000000000000000000000000000000 = some (.rotr 7) := by decide
theorem test_decode_swaph :
    decodeTableWord 64 0b0000001100000000000000000000000000000000000000000000000000000000 = some .swaph := by decide
theorem test_decode_bswap :
    decodeTableWord 64 0b0000010000000000000000000000000000000000000000000000000000000000 = some .bswap := by decide
theorem test_decode_swapg :
    decodeTableWord 64 0b0000010100011000000000000000000000000000000000000000000011111111 = some (.swapg 0xFF 24) := by decide
theorem test_decode_xorc :
    decodeTableWord 64 0b0000011000000000000000000000000010100101101001011010010110100101 = some (.xorc 0xA5A5A5A5) := by decide
theorem test_decode_mulc :
    decodeTableWord 64 0b0000011100000000000000000000000000000000000000000000000000000011 = some (.mulc 3) := by decide

/-- R82, R73: the names of the opcode table, and `CMD` lines of a host script. -/
theorem test_script_lines :
    Instr.verifyB.mnemonic = "VERIFY.B" ∧ scriptCmd .verifyB = some (.write 0x000 (.word 0x12)) ∧ scriptCmd .swaph = none ∧
    scriptLoadBuf "ab" = [.write 0x200 (.byte 0x61), .write 0x201 (.byte 0x62), .write 0x00C (.word 2)] ∧
    scriptRdHex.length = 64 ∧ scriptRdToken.length = 73 := by decide

/-! ## The micro-ops (95_test_vectors.md section 6 and the examples of R101 to R109) -/

theorem test_mnop : mxAfter .mnop 0x12345678 0x12345678 = true := by decide
theorem test_rotl : mxAfter (.rotl 13) 0x12345678 0x8ACF0246 = true ∧ mxAfter (.rotl 1) 0x80000000 0x00000001 = true := by decide
theorem test_rotr : mxAfter (.rotr 7) 0x12345678 0xF02468AC = true ∧ mxAfter (.rotr 1) 0x00000001 0x80000000 = true := by decide
theorem test_swaph : mxAfter .swaph 0x12345678 0x56781234 = true := by decide
theorem test_bswap : mxAfter .bswap 0x12345678 0x78563412 = true ∧ mxAfter .bswap 0x00000001 0x01000000 = true := by decide
theorem test_swapg :
    mxAfter (.swapg 0x0F0F0F0F 4) 0x12345678 0x21436587 = true ∧ mxAfter (.swapg 0x000000FF 24) 0x12345678 0x78345612 = true := by
  decide
theorem test_xorc :
    mxAfter (.xorc 0xA5A5A5A5) 0x12345678 0xB791F3DD = true ∧ mxAfter (.xorc 0) 0xDEADBEEF 0xDEADBEEF = true := by decide
theorem test_mulc :
    mxAfter (.mulc 0x9E3779B1) 0x12345678 0xF6D680F8 = true ∧ mxAfter (.mulc 3) 0x80000000 0x80000000 = true := by decide

/-- R112: the formula on the whole word, not an 8-bit rotate, which would give 0xB1 (C4). -/
theorem test_bstage : bstage ex1 0x41 1 = 0xB5 ∧ bstage ex1 0x54 0 = 0x9C := by decide

/-! ## The commands (95_test_vectors.md sections 3 to 5) -/

/-- `DERIVE` under EX1. -/
theorem test_derive :
    gives (exec .derive fresh) (fun t =>
      t.key == 0xCBE24A35 && t.c1 == 0xD876E027 && t.c2 == 0x4C9FB845 && t.status.refv && !t.status.vv) = true := by decide +kernel

/-- `VERIFY.A` under EX1: the accepted word, and its neighbour. -/
theorem test_verifyA :
    gives (exec .verifyA loadedA) (fun t => t.status.toWord == 0x007) = true ∧
    gives (exec .verifyA { derived with cand := 0xDCB16E66 }) (fun t => t.status.toWord == 0x003) = true := by decide +kernel

/-- R133, R135: the seed is rejected, and the pipeline's intermediate words are those of the vectors. -/
theorem test_pipeline :
    verifyA ex1 0xDEADBEEF = false ∧ stage1 ex1 0xDCB16E67 = 0xD5553C43 ∧
    stage2 ex1 0xD5553C43 = 0xAA7887AA ∧ pipeline ex1 0xDCB16E67 = 0x5F0B1257 := by decide +kernel

/-- `VERIFY.B` under EX1: the accepted sequence, and the scenario string with its transformed array. -/
theorem test_verifyB :
    gives (exec .verifyB loadedB) (fun t => t.status.toWord == 0x00F) = true ∧
    gives (exec .verifyB (load scenarioBytes derived)) (fun t =>
      t.status.toWord == 0x00B &&
        t.xt.toList == [0xAF, 0x87, 0x97, 0x6F, 0xCF, 0x77, 0xE7, 0x0F, 0x8F, 0x67, 0xD7, 0x4F, 0xAE, 0xB6, 0x86, 0xAE]) = true := by
  decide +kernel

/-- R137: 15 and 17 bytes are rejected without a fault. -/
theorem test_verifyB_length :
    gives (exec .verifyB (load (acceptedBytes.take 15) derived)) (fun t => t.status.toWord == 0x00B) = true ∧
    gives (exec .verifyB (load (acceptedBytes ++ [0]) derived)) (fun t => t.status.toWord == 0x00B) = true := by decide +kernel

/-- `DIGEST` of `abc` (R168). -/
theorem test_digest_abc :
    gives (exec .digest (load (ascii "abc") fresh)) (fun t =>
      t.dout.toList == [0xBA7816BF, 0x8F01CFEA, 0x414140DE, 0x5DAE2223, 0xB00361A3, 0x96177A9C, 0xB410FF61, 0xF20015AD] &&
        t.hex.toList == ascii "ba7816bf8f01cfea414140de5dae2223b00361a396177a9cb410ff61f20015ad" && t.status.toWord == 0x010) = true := by
  decide +kernel

/-- `DIGEST` of 56 letters, two blocks (section 4.1). -/
theorem test_digest_two_blocks :
    gives (exec .digest (load (List.replicate 56 0x61) fresh)) (fun t =>
      t.hex.toList == ascii "b35439a4ac6f0948b6d6f9e3c6af0f5f590ce20f1bde7090ef7970686ec6738a") = true := by decide +kernel

/-- `EMIT.A` under EX1: the text of section 3, the token's first and last characters around it. -/
theorem test_emitA :
    gives (exec .emitA acceptedA) (fun t =>
      t.hex.toList == ascii "2231963c59d519857a805c0bd9585b4e5c8a474955e19ec3ff94406bb654a6a4" &&
        t.token.toList == ascii "kctf-jr" ++ [0x7B] ++ t.hex.toList ++ [0x7D] && t.status.toWord == 0x037 &&
        t.msg == ascii "3702615655" && t.dlen == 10) = true := by decide +kernel

/-- `EMIT.B` of the accepted bytes (R185). -/
theorem test_emitB :
    gives (exec .emitB acceptedB) (fun t =>
      t.hex.toList == ascii "778d808f169b1812551743802ef4322278ba45ff55f2c50ef8cd3d484bc8e839" &&
        t.token.toList == ascii "kctf-jr" ++ [0x7B] ++ t.hex.toList ++ [0x7D] && t.status.toWord == 0x03F) = true := by decide +kernel

/-- R181: no leading zeros, no sign. -/
theorem test_decRender :
    decRender 0 = ascii "0" ∧ decRender 10 = ascii "10" ∧ decRender 0x80000000 = ascii "2147483648" ∧
    decRender 0xFFFFFFFF = ascii "4294967295" := by decide

/-- Section 4.3: the six functions. -/
theorem test_digest_functions :
    bsig0 0x12345678 = 0x66146474 ∧ bsig1 0x12345678 = 0x3561ABDA ∧ ssig0 0x12345678 = 0xE7FCE6EE ∧
    ssig1 0x12345678 = 0xA1F78649 ∧ ch 0x510E527F 0x9B05688C 0x1F83D9AB = 0x1F85C98C ∧
    maj 0x6A09E667 0xBB67AE85 0x3C6EF372 = 0x3A6FE667 := by decide

/-- Section 4.4: the first round of `abc`. -/
theorem test_first_round :
    let r := (ShaRegs.start (ascii "abc") ShaRegs.initial).loadBlock.round
    r.t1 = 0x54DA50E8 ∧ r.t2 = 0x08909AE5 ∧ r.a = 0x5D6AEBCD ∧ r.e = 0xFA2A4622 ∧ r.h = 0x1F83D9AB := by decide +kernel

/-! ## The gates and the other faults (R191, R193 to R196) -/

theorem test_gate_verify :
    gives (exec .verifyA fresh) (fun t => t.status.toWord == 0x280) = true ∧
    gives (exec .verifyB fresh) (fun t => t.status.toWord == 0x280) = true := by decide

/-- `EMIT` of the other policy than the verdict's is not accepted. -/
theorem test_gate_emit :
    gives (exec .emitA acceptedB) (fun t => t.status.toWord == 0x38F) = true ∧
    gives (exec .emitB acceptedA) (fun t => t.status.toWord == 0x387) = true := by decide

theorem test_ilen_limit :
    statusAfter (.write 0x00C (.word 63)) acceptedA 0x001 63 = true ∧
    statusAfter (.write 0x00C (.word 64)) acceptedA 0x487 0 = true := by decide

/-- Read-only registers, an undefined offset, the byte after `IBUF`, a wrong width, a misaligned word. -/
theorem test_bad_access :
    ([.write 0x004 (.word 0), .write 0x010 (.word 0), .write 0x040 (.byte 0), .write 0x01C (.word 0), .write 0x23F (.byte 0),
      .write 0x008 (.byte 1), .write 0x200 (.word 0), .write 0x00A (.word 0), .write 0x008 (.half 0), .write 0x008 (.wide 0)] :
        List HostEvent).all (fun e => statusAfter e fresh 0x580 0) = true := by decide

/-- R194: a stopped engine ignores a write that would fault; R195: `Reset` clears the fault. -/
theorem test_sticky_fault :
    statusAfter (.write 0x01C (.word 0)) faulted 0x181 0 = true ∧ statusAfter .reset faulted 0 0 = true := by decide

theorem test_illegal_command : statusAfter (.write 0x000 (.word 0x14)) derived 0x181 0 = true := by decide

/-- R27: reads of `STATUS`, of the first target byte and of a register whose valid flag is 1. -/
theorem test_reads :
    gives (step (before (.read 0x004 .word) derived)) (fun t => t.reads == [0x001]) = true ∧
    gives (step (before (.read 0x04F .byte) derived)) (fun t => t.reads == [0x8D]) = true ∧
    gives (step (before (.read 0x010 .word) derived)) (fun t => t.reads == [0xCBE24A35]) = true := by decide

/-! ## Fetching, and the first step after Reset -/

theorem test_fetch_command :
    step (State.reset.withFetchWord 32 0x04) = exec .digest State.reset ∧
    gives (step (State.reset.withFetchWord 32 0x01)) (fun t => t.status.refv) = true := ⟨rfl, by decide⟩

theorem test_fetch_micro :
    step (State.reset.withFetchWord 64 0x0300000000000000) = exec .swaph State.reset ∧
    gives (step ({ withMx 0x12345678 with uop := some 0x0300000000000000 })) (fun t => t.mixer.mx == 0x56781234 && t.uop == none) =
      true := ⟨rfl, by decide⟩

/-! ## Witnesses

For each statement of Certificates/Slice0/Obligations.lean that has hypotheses, values that meet them together, at the ends of their ranges
where they have some. -/

/-- The invariants of R33 hold of the accepted byte sequence of EX1, whose flags `REFV`, `VV`, `VERDICT` and `VPOL` are all 1. -/
theorem acceptedB_inv : Inv acceptedB where
  ilen := by unfold IlenInRange; decide
  clear := by unfold VerdictClear; decide
  needsRef := by unfold VerdictNeedsRef; decide
  ofCand := by unfold VerdictOfCand; decide +kernel
  ofInput := by unfold VerdictOfInput; decide +kernel
  refs := by unfold RefsDerived; decide +kernel
  hexText := by unfold HexOfDout; decide
  token := by unfold TokenFormed; decide
  cause := by unfold CauseClear; decide
  cells := by unfold CellsCanonical; decide

theorem witness_DecodeInvertsEncode :
    (Instr.swapg 0x00000001 31).wf = true ∧ Instr.emitB.wf = true ∧ encode (.rotl 31) = encode (.rotl 31) := by decide

theorem witness_EncodeInvertsDecode :
    decodeMicro 0x051F000000000001 = some (.swapg 1 31) ∧ decodeCommand 0x13 = some .emitB := by decide

theorem witness_MicroDecodeFollowsTable :
    (Instr.mulc 0xFFFFFFFF).isCommand = false ∧ decodeMicro 0x07000000FFFFFFFF = some (.mulc 0xFFFFFFFF) := by decide

theorem witness_IllegalCommandWordsFault :
    derived.status.err = false ∧ (0x14 : Word) ∉ ([0x01, 0x02, 0x12, 0x03, 0x13, 0x04] : List Word) := by decide

theorem witness_ReservedMicroWordsRejected :
    (∃ d : CfgData, d.rom1.ok = false ∨ d.rom2.ok = false ∨ d.rom3.ok = false) ∧
    (∃ t, step (before (.write 0x000 (.word 0x01)) fresh) = .next t) ∧ (Instr.mulc 0).wf = false :=
  ⟨⟨{ ex1Data with rom3 := ⟨0, 0, 0⟩ }, by decide⟩, ⟨_, rfl⟩, by decide⟩

theorem witness_StageAppliesListInOrder :
    StageRom.ofList [.swaph, .rotr 7] = some ex1.rom2 ∧
    StageRom.ofList [.bswap, .xorc 0x5F3759DF, .swapg 0x0F0F0F0F 4] = some ex1.rom3 := by decide

theorem witness_RotlMovesBitsUp :
    (1 : BitVec 5) ≠ 0 ∧ (31 : BitVec 5) ≠ 0 ∧ decodeMicro 0x011F000000000000 = some (.rotl 31) := by decide

theorem witness_RotrMovesBitsDown :
    (1 : BitVec 5) ≠ 0 ∧ (31 : BitVec 5) ≠ 0 ∧ decodeMicro 0x0201000000000000 = some (.rotr 1) := by decide

/-- The least and the greatest shift, bits in the mask and outside it. -/
theorem witness_SwapgExchangesSelectedBits :
    swapgOk 0x00000001 31 = true ∧ swapgOk 0x55555555 1 = true ∧ (0x55555555 : Word).getLsbD 30 = true ∧
    (1 : Word).getLsbD 1 = false ∧ ((1 : Word) <<< 31).getLsbD 1 = false ∧
    decodeMicro 0x0501000055555555 = some (.swapg 0x55555555 1) := by decide

theorem witness_XorcIsInvolution : decodeMicro 0x06000000FFFFFFFF = some (.xorc 0xFFFFFFFF) := by decide

theorem witness_MulcIsInvertible :
    (1 : Word).getLsbD 0 = true ∧ (0xFFFFFFFF : Word).getLsbD 0 = true ∧ decodeMicro 0x0700000000000001 = some (.mulc 1) := by decide

theorem witness_StagesAreBijections : (Instr.swapg 1 31).wf = true ∧ (Instr.swapg 1 31).isCommand = false := by decide

/-- Bits 14:8 zero: byte 0x54 at index 0 of section 5, whose `u` ends in 0x024E, has none; byte 0 with a zero multiplier has. -/
theorem witness_BstageBitEquations :
    ∃ (c : Cfg) (b : Byte) (i : Nat) (u : Word), u = (b.setWidth 32 * c.mulb + c.addb) ^^^ BitVec.ofNat 32 (3 * i + 5) ∧
      u.extractLsb' 8 7 = 0 :=
  ⟨{ ex1 with addb := 0, ok := by decide }, 0, 15, _, rfl, by decide⟩

theorem witness_DeriveWritesReferenceSet : faulted.status.err = true := by decide

/-- A valid ReferenceSet and an event that is no `Reset`; none and a `DERIVE`; a `Reset`. -/
theorem witness_ReferenceSetIsWriteOnce :
    (RefsDerived derived ∧ derived.status.refv = true ∧ ¬ ResetIsNext derived ∧ ∃ t, step derived = .next t) ∧
    (RefsDerived fresh ∧ fresh.status.refv = false ∧
      ∃ t, step (before (.write 0x000 (.word 0x01)) fresh) = .next t ∧ t.status.refv = true) ∧
    ResetIsNext (before .reset derived) :=
  ⟨⟨by unfold RefsDerived; decide +kernel, by decide, (fun ⟨_, h⟩ => by cases h.2), ⟨_, rfl⟩⟩,
    ⟨by unfold RefsDerived; decide +kernel, by decide, _, rfl, rfl⟩, ⟨[], rfl, rfl⟩⟩

theorem witness_VerifyAWritesVerdict : derived.status.refv = true ∧ fresh.status.refv = false := by decide

theorem witness_ExactlyOneCandidateAccepted : verifyA ex1 0xDCB16E67 = true ∧ refC1 ex1 ≠ 0 := by decide +kernel

/-- The lengths around 16, and an accepted sequence. -/
theorem witness_ArrayPolicyComparesElements :
    (acceptedBytes.take 15).length ≠ 16 ∧ (acceptedBytes ++ [0]).length ≠ 16 ∧ acceptedBytes.length = 16 ∧
    verifyB ex1 acceptedBytes = true := by decide +kernel

theorem witness_VerifyBWritesVerdict :
    (loadedB.status.refv = true ∧ loadedB.ilen = 16) ∧
    ((load (acceptedBytes.take 15) derived).status.refv = true ∧ (load (acceptedBytes.take 15) derived).ilen ≠ 16) ∧
    fresh.status.refv = false := by decide

theorem witness_ScenarioStringRejected :
    ∃ c c' : Cfg, c ≠ c' ∧ c.mulb.setWidth 15 = c'.mulb.setWidth 15 ∧ c.addb.setWidth 15 = c'.addb.setWidth 15 :=
  ⟨ex1, { ex1 with mulb := 0x0000BFF9, ok := by decide }, by decide, by decide, by decide⟩

theorem witness_VerifyIsRepeatable : (∃ t, exec .verifyA loadedA = .next t) ∧ (∃ t, exec .verifyB loadedB = .next t) :=
  ⟨⟨_, rfl⟩, ⟨_, rfl⟩⟩

theorem witness_DigestFunctionsBitwise : 0 < 32 ∧ 31 < 32 := by decide

/-- The lengths where the number of zeros turns round. -/
theorem witness_PaddingFillsBlocks :
    (List.replicate 55 (0x61 : Byte)).length < 2 ^ 61 ∧ (List.replicate 56 (0x61 : Byte)).length < 2 ^ 61 ∧
    padZeros 55 = 0 ∧ padZeros 56 = 63 := by decide

theorem witness_ScheduleFollowsRecurrence : (pad (ascii "abc")).length = 64 ∧ 15 < 16 ∧ 16 ≤ 16 ∧ 63 < 64 := by decide +kernel

theorem witness_RoundsUpdateRegisters :
    ∃ p q : ShaRegs, p = ShaRegs.rounds 0 ShaRegs.initial.loadBlock ∧ q = ShaRegs.rounds 1 ShaRegs.initial.loadBlock :=
  ⟨_, _, rfl, rfl⟩

/-- The empty message has one block, so `n` = 1 is its last. -/
theorem witness_BlocksAccumulateInOrder :
    (∃ p q e : ShaRegs, p = ShaRegs.blocks 1 (ShaRegs.initial.start []) ∧ q = ShaRegs.blocks 2 (ShaRegs.initial.start []) ∧
      e = ShaRegs.rounds 64 p.loadBlock) ∧ 64 * 1 = (pad []).length :=
  ⟨⟨_, _, _, rfl, rfl, rfl⟩, by decide⟩

theorem witness_HexRenderGivesDigits :
    (0xA : Nat) = (Chain.get ⟨0, 0xA, 0, 0, 0, 0, 0, 0⟩ 1).toNat / 16 ^ (7 - 7) % 16 ∧
    (9 : Nat) = (Chain.get ⟨0x90000000, 0, 0, 0, 0, 0, 0, 0⟩ 0).toNat / 16 ^ (7 - 0) % 16 := by decide

theorem witness_DigestWritesHash : 0 < loadedB.ilen.toNat ∧ 15 < loadedB.ilen.toNat := by decide

theorem witness_DecRenderGivesDigits :
    1 = (decRender 0).length ∧ 1 = (decRender 9).length ∧ 2 = (decRender 10).length ∧ 10 = (decRender 0xFFFFFFFF).length ∧
    (10 : Word) ≠ 0 := by decide

theorem witness_TokenWrapLayout : (hexRender initialChain).length = 64 := by decide

theorem witness_EmitAWritesToken :
    (acceptedA.status.vv = true ∧ acceptedA.status.verdict = true ∧ acceptedA.status.vpol = false) ∧
    ¬ (acceptedB.status.vv = true ∧ acceptedB.status.verdict = true ∧ acceptedB.status.vpol = false) := by decide

theorem witness_EmitBWritesToken :
    (acceptedB.status.vv = true ∧ acceptedB.status.verdict = true ∧ acceptedB.status.vpol = true ∧ Inv acceptedB) ∧
    ¬ (acceptedA.status.vv = true ∧ acceptedA.status.verdict = true ∧ acceptedA.status.vpol = true) :=
  ⟨⟨by decide, by decide, by decide, acceptedB_inv⟩, by decide⟩

/-- A state with `TV` = 1 and a well-formed token in it. -/
def tokenHeld : State :=
  { acceptedA with token := tokenText initialChain, status := { acceptedA.status with tv := true } }

theorem witness_TokenKeepsTemplate :
    TokenFormed tokenHeld ∧ tokenHeld.status.tv = true ∧ ∃ t, step (before (.write 0x000 (.word 0x04)) tokenHeld) = .next t :=
  ⟨by unfold TokenFormed; decide +kernel, by decide, ⟨_, rfl⟩⟩

theorem witness_OutputsAreShared :
    (acceptedA.status.accepted false = true ∧ ∃ t, exec .emitA acceptedA = .next t) ∧
    (acceptedB.status.accepted true = true ∧ ∃ t, exec .emitB acceptedB = .next t) ∧ ∃ t, exec .digest acceptedA = .next t :=
  ⟨⟨by decide, ⟨_, rfl⟩⟩, ⟨by decide, ⟨_, rfl⟩⟩, ⟨_, rfl⟩⟩

/-- The last byte of `IBUF` and a register; the first and the last offset of several ranges, the reserved ones among them. -/
theorem witness_RegisterMapIsOneToOne :
    62 < 63 ∧ (0x050 ≤ 0x050 ∧ 0x050 ≤ 0x07F) ∧ (0x109 ≤ 0x1FF ∧ 0x1FF ≤ 0x1FF) ∧ 0x200 + 63 ≤ 0x23F ∧
    (Target.ibuf 62 ≠ .undefinedOffset ∧ 62 < 63) ∧ Target.dout 7 ≠ .undefinedOffset ∧
    locate 63 0x000 .word ≠ .undefinedOffset ∧ locate 63 0x03C .word ≠ .undefinedOffset ∧
    locate 63 0x108 .byte ≠ .undefinedOffset ∧ locate 63 0x23E .byte ≠ .undefinedOffset := by decide

/-- The greatest length and the last index that are accepted. -/
theorem witness_InputWriteClearsVerdict :
    acceptedB.status.err = false ∧ (63 : Word).toNat ≤ acceptedB.cfg.ibufMax ∧ 62 < acceptedB.cfg.ibufMax ∧ (61 : Nat) ≠ 62 := by
  decide

theorem witness_BadAccessesStoreNothing :
    fresh.status.err = false ∧ (locate fresh.cfg.ibufMax 0x004 (Datum.word 0).width).writable = false ∧
    (locate fresh.cfg.ibufMax 0x23F (Datum.byte 0).width).writable = false ∧
    locate fresh.cfg.ibufMax 0x01C .word = .undefinedOffset ∧ (0x03F < 0x040) ∧ (0x00A : Nat) % 4 ≠ 0 := by decide

/-- One offset for each clause, the last element of each array, in a state whose valid flags are 1. -/
theorem witness_ReadsReturnRegisters :
    NextEvent (before (.read 0x004 .word) tokenHeld) (.read 0x004 .word) [] ∧
    ([(0x000, .word), (0x004, .word), (0x008, .word), (0x00C, .word), (0x010, .word), (0x014, .word), (0x018, .word), (0x03C, .word),
      (0x04F, .byte), (0x0BF, .byte), (0x108, .byte), (0x23E, .byte)] : List (Nat × Width)).map (fun a => locate 63 a.1 a.2) =
      [.cmd, .status, .cand, .ilen, .key, .c1, .c2, .dout 7, .tgt 15, .hex 63, .token 72, .ibuf 62] ∧
    tokenHeld.status.refv = true ∧ tokenHeld.status.tv = true ∧ ∃ s : State, s.status.dv = true :=
  ⟨⟨rfl, rfl⟩, by decide, by decide, by decide, ⟨{ fresh with status := fresh.status.setDv }, rfl⟩⟩

theorem witness_OutputsHaveTheirWriters : (∃ t, exec .derive fresh = .next t) ∧ ∃ t, exec (.rotl 1) fresh = .next t :=
  ⟨⟨_, rfl⟩, ⟨_, rfl⟩⟩

theorem witness_InstructionsKeepInputs : (∃ t, exec .emitB acceptedB = .next t) ∧ ∃ t, exec (.mulc 3) fresh = .next t :=
  ⟨⟨_, rfl⟩, ⟨_, rfl⟩⟩

/-- The flags before and the flags set. -/
theorem witness_FlagsChangeByTheirEvents :
    (¬ ResetIsNext (before (.write 0x000 (.word 0x03)) acceptedA) ∧ acceptedA.status.refv = true ∧
      ∃ t, step (before (.write 0x000 (.word 0x03)) acceptedA) = .next t ∧ t.status.tv = true ∧ t.status.dv = true) ∧
    (∃ t, step (before (.write 0x000 (.word 0x02)) loadedA) = .next t ∧ t.status.vv = true) ∧
    (∃ t, step (before (.write 0x000 (.word 0x01)) fresh) = .next t ∧ t.status.refv = true) ∧
    tokenHeld.status.tv = true ∧ faulted.status.err = true :=
  ⟨⟨(fun ⟨_, h⟩ => by cases h.2), by decide, _, rfl, rfl, rfl⟩, ⟨_, rfl, rfl⟩, ⟨_, rfl, rfl⟩, by decide, by decide⟩

theorem witness_HiddenStorageStaysHidden :
    fresh.wiped = (withMx 0xFFFFFFFF).wiped ∧ fresh.mixer ≠ (withMx 0xFFFFFFFF).mixer ∧ ∃ t, step fresh = .next t :=
  ⟨rfl, by decide, ⟨_, rfl⟩⟩

/-- A byte beyond `ILEN` that differs. -/
theorem witness_StaleBytesAreIgnored :
    Instr.verifyB.isCommand = true ∧
    (∀ k, k < loadedB.ilen.toNat →
      State.ibufByte { loadedB with ibuf := cells 0 (acceptedBytes ++ [0xFF]) } k = loadedB.ibufByte k) ∧
    ∃ t, exec .verifyB loadedB = .next t :=
  ⟨by decide, by decide, ⟨_, rfl⟩⟩

/-- A fault of each cause, and a write that raises none. -/
theorem witness_FaultCausesAreExact :
    fresh.status.err = false ∧ decodeCommand 0x14 = none ∧ locate fresh.cfg.ibufMax 0x000 .word = .cmd ∧
    fresh.status.refv = false ∧ decodeCommand 0x02 = some .verifyA ∧ decodeCommand 0x13 = some .emitB ∧ fresh.status.vv = false ∧
    locate fresh.cfg.ibufMax 0x00C .word = .ilen ∧ fresh.cfg.ibufMax < (64 : Word).toNat ∧ ¬ fresh.cfg.ibufMax < (63 : Word).toNat ∧
    (locate fresh.cfg.ibufMax 0x01C .word).writable = false := by decide

theorem witness_FaultEntryIsPrecise :
    acceptedA.status.err = false ∧ ∃ t, hostWrite 0x00C (.word 64) acceptedA = .next t ∧ t.status.err = true :=
  ⟨by decide, _, rfl, rfl⟩

theorem witness_FaultedEngineIgnoresWrites :
    faulted.status.err = true ∧ NextEvent (before (.write 0x008 (.word 1)) faulted) (.write 0x008 (.word 1)) [] ∧
    NextEvent (before (.read 0x010 .word) faulted) (.read 0x010 .word) [] := ⟨by decide, ⟨rfl, rfl⟩, ⟨rfl, rfl⟩⟩

theorem witness_OnlyResetClearsFault :
    (faulted.status.err = true ∧ ¬ ResetIsNext faulted ∧ ∃ t, step faulted = .next t) ∧
    ResetIsNext (before .reset faulted) ∧ ∃ t, step (before .reset faulted) = .next t :=
  ⟨⟨by decide, (fun ⟨_, h⟩ => by cases h.2), ⟨_, rfl⟩⟩, ⟨[], rfl, rfl⟩, ⟨_, rfl⟩⟩

/-- An access for each case of R196. -/
theorem witness_WriteChecksInOrder :
    faulted.status.err = true ∧ fresh.status.err = false ∧
    Target.undefinedOffset = locate fresh.cfg.ibufMax 0x01C (Datum.word 0).width ∧
    Target.ilen = locate fresh.cfg.ibufMax 0x00C (Datum.word 63).width ∧
    Target.cand = locate fresh.cfg.ibufMax 0x008 (Datum.word 0).width ∧
    Target.ibuf 62 = locate fresh.cfg.ibufMax 0x23E (Datum.byte 0).width ∧
    Target.cmd = locate fresh.cfg.ibufMax 0x000 (Datum.word 0x04).width ∧ decodeCommand 0 = none ∧
    decodeCommand 0x04 = some .digest := by decide

theorem witness_GatedCommandsDoNotFault :
    (Instr.emitA.isCommand = true ∧ acceptedA.status.accepted false = true) ∧
    (Instr.emitB.isCommand = true ∧ acceptedB.status.accepted true = true) ∧
    (Instr.verifyA.isCommand = true ∧ derived.status.refv = true) := by decide

theorem witness_StepRunsDecodedInstruction :
    NextEvent (before (.write 0x23E (.byte 0)) fresh) (.write 0x23E (.byte 0)) [] ∧
    NextEvent (before (.write 0x01C (.wide 0)) faulted) (.write 0x01C (.wide 0)) [] ∧
    (IssueIsNext (before (.write 0x000 (.word 0x12)) fresh) 0x12 ∧ decodeCommand 0x12 = some .verifyB) ∧
    ({ fresh with uop := some 0x0300000000000000 } : State).uop = some 0x0300000000000000 ∧
    decodeMicro 0x0300000000000000 = some .swaph ∧
    fresh.uop = none ∧ fresh.status.err = false ∧ decodeTableWord 32 0x04 = some .digest :=
  ⟨⟨rfl, rfl⟩, ⟨rfl, rfl⟩, ⟨⟨by decide, [], rfl, rfl⟩, by decide⟩, by decide, by decide, by decide, by decide, by decide⟩

theorem witness_EngineNeverStops : fresh.uop = none := by decide

theorem witness_ResetClearsEngine : NextEvent (before .reset faulted) .reset [] := ⟨rfl, rfl⟩

theorem witness_StepKeepsInvariants : Inv acceptedB ∧ ∃ t, step acceptedB = .next t := ⟨acceptedB_inv, ⟨_, rfl⟩⟩

/-- A reachable state with `ERR` = 1: an illegal command word right after Reset. -/
theorem witness_ReachableStatesMeetInvariants :
    ∃ s : State, Reachable s ∧ s.status.err = true ∧ ¬ ResetIsNext s ∧ ∃ t, step s = .next t :=
  ⟨raiseFault .illegalCommand (State.afterReset ex1 0),
    .next { State.afterReset ex1 0 with host := [.write 0x000 (.word 0)] } _ (.start ex1 0 _) rfl,
    rfl, (fun ⟨_, h⟩ => by cases h.2), ⟨_, rfl⟩⟩

end Sys2Proof.Tests
end

section
/-! SUPPORT. The instruction a step runs: by an accepted command word, by a micro-op word in the mixer, and by a table word put where the
step fetches it (R57, R70, R71; log 7, log 8). -/

namespace Sys2Proof.Machine

/-! ## What is run -/

/-- An accepted write to `CMD` runs the command its word decodes to (R71). -/
theorem hostWrite_cmd_of_decode {s : State} {w : Word} {i : Instr} (he : s.status.err = false) (hd : decodeCommand w = some i) :
    hostWrite 0x000 (.word w) s = exec i s :=
  calc hostWrite 0x000 (.word w) s
    _ = writeTarget .cmd (.word w) s := by rw [hostWrite, if_neg (by simp [he])]; rfl
    _ = issue w s := rfl
    _ = exec i s := by simp only [issue, decode, hd]

/-- The step that carries out an accepted write to `CMD` runs the command to its end (R57). -/
theorem step_of_nextEvent_cmd {s : State} {w : Word} {i : Instr} {rest : List HostEvent} (he : s.status.err = false)
    (hn : NextEvent s (.write 0x000 (.word w)) rest) (hd : decodeCommand w = some i) :
    step s = exec i { s with host := rest } :=
  (step_of_nextEvent hn).trans (hostWrite_cmd_of_decode (s := { s with host := rest }) he hd)

/-- A micro-op word in the mixer goes before any host event (log 8). -/
theorem step_of_uop {s : State} {u : MicroWord} {i : Instr} (hu : s.uop = some u) (hd : decodeMicro u = some i) :
    step s = exec i { s with uop := none } := by
  simp only [step, stepOnce, hu, runMicroWord, decode, hd]

/-! ## Placing a table word -/

/-- A placed 32-bit word is the next event, as a write to `CMD` before the host's own (log 7). -/
theorem nextEvent_withFetchWord (s : State) (w : Nat) :
    NextEvent (s.withFetchWord 32 w) (.write 0x000 (.word (BitVec.ofNat 32 w))) s.host := ⟨rfl, rfl⟩

/-- A placed 64-bit word stands in the mixer (log 8). -/
theorem State.withFetchWord_uop (s : State) (w : Nat) : (s.withFetchWord 64 w).uop = some (BitVec.ofNat 64 w) := rfl

/-- A table word that decodes is a command word or a micro-op word (R70). -/
theorem decodeTableWord_cases {nbits w : Nat} {i : Instr} (h : decodeTableWord nbits w = some i) :
    (nbits = 32 ∧ decodeCommand (BitVec.ofNat 32 w) = some i) ∨ (nbits = 64 ∧ decodeMicro (BitVec.ofNat 64 w) = some i) := by
  unfold decodeTableWord at h
  split at h
  · next h32 => exact .inl ⟨h32, h⟩
  · split at h
    · next h64 => exact .inr ⟨h64, h⟩
    · cases h

/-- Taking the word out of a mixer that holds none changes nothing. -/
theorem State.clearUop_of_none {s : State} (h : s.uop = none) : { s with uop := none } = s := by
  cases s
  cases h
  rfl

/-- The step after placing a table word runs its instruction on the state before the placing. -/
theorem step_withFetchWord {s : State} {nbits w : Nat} {i : Instr} (hu : s.uop = none) (he : s.status.err = false)
    (hd : decodeTableWord nbits w = some i) : step (s.withFetchWord nbits w) = exec i s := by
  have hs : exec i { s with uop := none } = exec i s := congrArg (exec i) (State.clearUop_of_none hu)
  obtain ⟨rfl, hc⟩ | ⟨rfl, hm⟩ := decodeTableWord_cases hd
  · have he' : (s.withFetchWord 32 w).status.err = false := he
    exact (step_of_nextEvent_cmd he' (nextEvent_withFetchWord s w) hc).trans hs
  · exact (step_of_uop (s.withFetchWord_uop w) hm).trans hs

/-! ## The statement -/

/-- Settles O55: each clause is the step lemma of its kind of word or event. -/
theorem stepRunsDecodedInstruction : Obligations.StepRunsDecodedInstruction := by
  unfold Obligations.StepRunsDecodedInstruction
  refine ⟨?write, ?issued, ?micro, ?placed⟩
  case write => exact fun s offset d rest hn => step_of_nextEvent hn
  case issued =>
    rintro s w i ⟨he, rest, hn⟩ hd
    exact ⟨rest, hn.2, step_of_nextEvent_cmd he hn hd⟩
  case micro => exact fun s u i hu hd => step_of_uop hu hd
  case placed => exact fun s nbits w i hu he hd => step_withFetchWord hu he hd

end Sys2Proof.Machine
end

section
/-! SUPPORT. The invariants of R33: they hold after Reset, every operation keeps them, and so does every step. -/

namespace Sys2Proof.Machine

/-! ## The invariants speak of registers alone -/

theorem SameRegisters.refl (s : State) : SameRegisters s s :=
  ⟨rfl, rfl, rfl, rfl, rfl, rfl, rfl, rfl, rfl, rfl, rfl, rfl⟩

/-- The input bytes are those of the registers, the written cells and the Reset they date from. -/
theorem SameRegisters.input_eq {s t : State} (h : SameRegisters s t) : t.input = s.input := by
  obtain ⟨-, -, -, hilen, -, -, -, -, -, -, hibuf, hresets⟩ := h
  exact State.input_congr hilen hibuf hresets

/-- What no register shows, no invariant sees. -/
theorem Inv.of_sameRegisters {s t : State} (h : Inv s) (hr : SameRegisters s t) : Inv t := by
  have hin := hr.input_eq
  obtain ⟨hcfg, hstatus, hcand, hilen, hkey, hc1, hc2, hdout, hhex, htoken, hibuf, -⟩ := hr
  exact
    { ilen := by simpa only [IlenInRange, hilen, hcfg] using h.ilen
      clear := by simpa only [VerdictClear, hstatus] using h.clear
      needsRef := by simpa only [VerdictNeedsRef, hstatus] using h.needsRef
      ofCand := by simpa only [VerdictOfCand, hstatus, hcfg, hcand] using h.ofCand
      ofInput := by simpa only [VerdictOfInput, hstatus, hcfg, hin] using h.ofInput
      refs := by simpa only [RefsDerived, hstatus, hcfg, hkey, hc1, hc2] using h.refs
      hexText := by simpa only [HexOfDout, hstatus, hhex, hdout] using h.hexText
      token := by simpa only [TokenFormed, hstatus, htoken] using h.token
      cause := by simpa only [CauseClear, hstatus] using h.cause
      cells := by simpa only [CellsCanonical, hibuf, hcfg] using h.cells }

/-- A verdict stays that of the input bytes while neither changes. -/
theorem VerdictOfInput.of_unchanged {s t : State} (h : VerdictOfInput s) (hinput : t.input = s.input) (hcfg : t.cfg = s.cfg)
    (hvv : t.status.vv = s.status.vv) (hvpol : t.status.vpol = s.status.vpol) (hverdict : t.status.verdict = s.status.verdict) :
    VerdictOfInput t := by
  simpa only [VerdictOfInput, hinput, hcfg, hvv, hvpol, hverdict] using h

/-! ## Reset, faults and input writes -/

/-- After Reset no flag is set, so only the bound on `ILEN` and the form of the empty `IBUF` say anything. -/
theorem Inv.afterReset (c : Cfg) (n : Nat) : Inv (State.afterReset c n) where
  ilen := Nat.zero_le _
  clear := fun _ => ⟨rfl, rfl⟩
  needsRef := nofun
  ofCand := nofun
  ofInput := nofun
  refs := nofun
  hexText := nofun
  token := nofun
  cause := fun _ => rfl
  cells := ⟨Memory.wf_nil, Memory.below_nil _⟩

theorem sameRegisters_resetEngine (s : State) : SameRegisters (State.afterReset s.cfg (s.resets + 1)) (resetEngine s) :=
  SameRegisters.refl (State.afterReset s.cfg (s.resets + 1))

theorem Inv.resetEngine (s : State) : Inv (resetEngine s) :=
  (Inv.afterReset s.cfg (s.resets + 1)).of_sameRegisters (sameRegisters_resetEngine s)

/-- A fault writes `ERR` and `CAUSE` alone (R193). -/
theorem Inv.raiseFault {s : State} (h : Inv s) (c : Cause) : Inv (raiseFault c s) :=
  { h with
    ofInput := h.ofInput.of_unchanged (State.input_congr rfl rfl rfl) rfl rfl rfl rfl
    cause := nofun }

/-- An input write clears the verdict (R26), so only what it stores has to fit. -/
theorem Inv.clearVerdict_of_inputs {s : State} (h : Inv s) (cand : Word) {ilen : Word} {ibuf : Memory}
    (hilen : ilen.toNat ≤ s.cfg.ibufMax) (hcells : Memory.wf ibuf = true ∧ Memory.below ibuf s.cfg.ibufMax = true) :
    Inv (State.clearVerdict { s with cand := cand, ilen := ilen, ibuf := ibuf }) :=
  { h with
    ilen := hilen
    clear := fun _ => ⟨rfl, rfl⟩
    needsRef := nofun
    ofCand := nofun
    ofInput := nofun
    cells := hcells }

theorem Inv.storeCand {s : State} (h : Inv s) (v : Word) : Inv (s.storeCand v) :=
  h.clearVerdict_of_inputs v h.ilen h.cells

theorem Inv.storeIlen {s : State} (h : Inv s) {v : Word} (hv : v.toNat ≤ s.cfg.ibufMax) : Inv (s.storeIlen v) :=
  h.clearVerdict_of_inputs s.cand hv h.cells

theorem Inv.storeIbuf {s : State} (h : Inv s) {i : Nat} (hi : i < s.cfg.ibufMax) (b : Byte) : Inv (s.storeIbuf i b) :=
  h.clearVerdict_of_inputs s.cand h.ilen ⟨Memory.write_wf i b h.cells.1, Memory.write_below hi b h.cells.2⟩

/-! ## The token's form (R167, R182) -/

theorem isHexChar_hexDigit (v : BitVec 4) : isHexChar (hexDigit v) = true := by
  revert v
  decide

theorem all_isHexChar_hexRender (d : Chain) : (hexRender d).all isHexChar = true := by
  simp [hexRender, hexWord, isHexChar_hexDigit]

/-- A text of 64 hex characters, wrapped, is a token. -/
theorem isToken_tokenWrap {x : List Byte} (hlen : x.length = 64) (hx : x.all isHexChar = true) :
    isToken (tokenWrap x) = true := by
  simpa [isToken, tokenWrap, tokenHead, hlen] using hx

theorem isToken_tokenText (d : Chain) : isToken (tokenText d).toList = true := by
  rw [tokenText_toList]
  exact isToken_tokenWrap (hexRender_length d) (all_isHexChar_hexRender d)

/-! ## The verdicts are those of the present inputs -/

/-- The comparison of R134 with the registers is that of R133 with the reference values they hold (R33.6). -/
theorem Inv.verdictA_eq {s : State} (h : Inv s) (hr : s.status.refv = true) :
    ((pipeline s.cfg s.cand ^^^ s.key) == (s.c1 ^^^ s.c2)) = verifyA s.cfg s.cand := by
  obtain ⟨hkey, hc1, hc2⟩ := h.refs hr
  rw [hkey, hc1, hc2, verifyA]

/-- With 16 input bytes the comparison of R138 is that of R137. -/
theorem verifyB_input_of_ilen {s : State} (hl : s.ilen = 16) :
    verifyB s.cfg s.input = (s.transformed.toList == tgtTable.toList) := by
  have hin : s.input = s.ibufFrom 0 16 := by rw [State.input, hl]; rfl
  rw [verifyB, hin, ibufFrom_length]
  rfl

/-- With any other number of input bytes Policy Array-Equality rejects (R137). -/
theorem verifyB_input_of_ilen_ne {s : State} (hl : s.ilen ≠ 16) : verifyB s.cfg s.input = false := by
  have hne : s.input.length ≠ 16 := by
    rw [State.input_length]
    exact fun h => hl (BitVec.eq_of_toNat_eq h)
  rw [verifyB, beq_false_of_ne hne, Bool.false_and]

/-! ## Commands -/

/-- `DERIVE` writes the values of R130. -/
theorem Inv.derive {s : State} (h : Inv s) (m : Mixer) :
    Inv { s with key := refKey s.cfg, c1 := refC1 s.cfg, c2 := refC2 s.cfg, mixer := m, status := s.status.setRefv } :=
  { h with
    needsRef := fun _ => rfl
    ofInput := h.ofInput.of_unchanged (State.input_congr rfl rfl rfl) rfl rfl rfl rfl
    refs := fun _ => ⟨rfl, rfl, rfl⟩ }

/-- A new verdict behind the gate `REFV` keeps the invariants if it is that of its policy. -/
theorem Inv.setVerdict {s : State} (h : Inv s) (hr : s.status.refv = true) {pol ok : Bool}
    (hok : ok = if pol then verifyB s.cfg s.input else verifyA s.cfg s.cand) :
    Inv { s with status := s.status.setVerdict pol ok } :=
  { h with
    clear := nofun
    needsRef := fun _ => hr
    ofCand := fun _ hpol => by cases hpol; exact hok
    ofInput := fun _ hpol => by
      cases hpol
      exact hok.trans (congrArg (verifyB s.cfg) (State.input_congr rfl rfl rfl)) }

/-- A digest writes `HEX` with `DOUT` (R168). -/
theorem Inv.digest {s : State} (h : Inv s) (msg : List Byte) : Inv { s.digestInto msg with status := s.status.setDv } :=
  { h with
    ofInput := h.ofInput.of_unchanged (State.input_congr rfl rfl rfl) rfl rfl rfl rfl
    hexText := fun _ => rfl }

/-- An `EMIT` writes `HEX` and `TOKEN` with `DOUT` (R184, R185). -/
theorem Inv.emitFrom {s : State} (h : Inv s) (msg : List Byte) : Inv (s.emitFrom msg) :=
  { h with
    ofInput := h.ofInput.of_unchanged (State.input_congr rfl rfl rfl) rfl rfl rfl rfl
    hexText := fun _ => rfl
    token := fun _ => isToken_tokenText _ }

/-- Every command keeps the invariants. -/
theorem Inv.exec_command {i : Instr} {s t : State} (h : Inv s) (hc : i.isCommand = true) (ht : exec i s = .next t) : Inv t := by
  obtain ⟨rfl, -, -⟩ | ⟨rfl, -⟩ | ⟨-, rfl⟩ | ⟨-, hr, rfl⟩ | ⟨-, hr, hl, rfl⟩ | ⟨-, hr, hl, rfl⟩ | ⟨-, -, rfl⟩ | ⟨-, -, rfl⟩ |
    ⟨-, rfl⟩ := exec_command_cases hc ht
  · exact h.raiseFault .notDerived
  · exact h.raiseFault .notAccepted
  · exact h.derive _
  · exact (h.setVerdict (pol := false) hr (h.verdictA_eq hr)).of_sameRegisters (SameRegisters.refl _)
  · exact (h.setVerdict (pol := true) hr (verifyB_input_of_ilen hl).symm).of_sameRegisters (SameRegisters.refl _)
  · exact h.setVerdict (pol := true) hr (verifyB_input_of_ilen_ne hl).symm
  · exact (h.emitFrom (decRender s.cand)).of_sameRegisters (SameRegisters.refl _)
  · exact h.emitFrom s.input
  · exact h.digest s.input

/-! ## Host events and steps -/

/-- An accepted or ignored write keeps the invariants, whatever it writes. -/
theorem Inv.hostWrite {offset : Nat} {d : Datum} {s t : State} (h : Inv s) (ht : hostWrite offset d s = .next t) : Inv t := by
  obtain ⟨-, rfl⟩ | ⟨-, ⟨c, -, rfl⟩ | ⟨v, rfl⟩ | ⟨v, hv, rfl⟩ | ⟨i, b, hi, rfl⟩ | ⟨w, i, -, -, hd, hi⟩⟩ := hostWrite_cases ht
  · exact h
  · exact h.raiseFault c
  · exact h.storeCand v
  · exact h.storeIlen hv
  · exact h.storeIbuf hi b
  · exact h.exec_command (decodeCommand_sound hd) hi

/-- A read changes no register (R28). -/
theorem sameRegisters_hostRead (offset : Nat) (w : Width) (s : State) : SameRegisters s (hostRead offset w s) := by
  obtain ⟨v, n, hread⟩ := hostRead_eq offset w s
  rw [hread]
  exact SameRegisters.refl s

/-- Settles O59: a micro-op, an idle step and a read change no register, Reset clears every flag, and a write is one of
`hostWrite_cases`. -/
theorem stepKeepsInvariants : Obligations.StepKeepsInvariants := by
  unfold Obligations.StepKeepsInvariants
  intro s t h ht
  obtain ⟨u, i, -, -, rfl⟩ | ⟨-, -, rfl⟩ | ⟨rest, -, rfl⟩ | ⟨offset, w, rest, -, rfl⟩ | ⟨offset, d, rest, -, hw⟩ := step_cases ht
  · exact h.of_sameRegisters (SameRegisters.refl s)
  · exact h
  · exact Inv.resetEngine _
  · exact h.of_sameRegisters (sameRegisters_hostRead offset w { s with host := rest })
  · have hrest : Inv { s with host := rest } := h.of_sameRegisters (SameRegisters.refl s)
    exact hrest.hostWrite hw

end Sys2Proof.Machine
end

section
/-! SUPPORT. The register map of R21: what an access of each width names at each offset (R58). -/

namespace Sys2Proof.Machine

/-! ## From a register to its offset -/

theorem locateWord_dout (j : Fin 8) : locateWord (0x020 + 4 * j.val) = .dout j := by
  revert j
  decide

theorem locateByte_tgt (n : Nat) (i : Fin 16) : locateByte n (0x040 + i.val) = .tgt i := by
  rw [locateByte, dif_pos (by omega)]
  simp

theorem locateByte_hex (n : Nat) (i : Fin 64) : locateByte n (0x080 + i.val) = .hex i := by
  rw [locateByte, dif_neg (by omega), dif_pos (by omega)]
  simp

theorem locateByte_token (n : Nat) (i : Fin 73) : locateByte n (0x0C0 + i.val) = .token i := by
  rw [locateByte, dif_neg (by omega), dif_neg (by omega), dif_pos (by omega)]
  simp

theorem locateByte_ibuf {n i : Nat} (h : i < n) : locateByte n (0x200 + i) = .ibuf i := by
  rw [locateByte, dif_neg (by omega), dif_neg (by omega), dif_neg (by omega), if_pos (by omega), Nat.add_sub_cancel_left]

/-- An access of a register's width at its offset names it, an element of `IBUF` inside the buffer. -/
theorem locate_offset_width {n : Nat} {g : Target} (hg : g ≠ .undefinedOffset) (hi : ∀ i, g = .ibuf i → i < n) :
    locate n g.offset g.width = g := by
  cases g with
  | cmd | status | cand | ilen | key | c1 | c2 => rfl
  | dout j => exact locateWord_dout j
  | tgt i => exact locateByte_tgt n i
  | hex i => exact locateByte_hex n i
  | token i => exact locateByte_token n i
  | ibuf i => exact locateByte_ibuf (hi i rfl)
  | undefinedOffset => exact absurd rfl hg

/-! ## From an offset to its register -/

/-- A word access that names something stands at the offset of a word register. -/
theorem locateWord_inv {offset : Nat} {g : Target} (h : locateWord offset = g) (hg : g ≠ .undefinedOffset) :
    offset = g.offset ∧ .word = g.width := by
  unfold locateWord at h
  split_ifs at h <;> subst h
  case neg => exact absurd rfl hg
  all_goals exact ⟨by simp only [Target.offset]; omega, rfl⟩

/-- A byte access that names something stands at the offset of an array element. -/
theorem locateByte_inv {n offset : Nat} {g : Target} (h : locateByte n offset = g) (hg : g ≠ .undefinedOffset) :
    offset = g.offset ∧ .byte = g.width := by
  unfold locateByte at h
  split_ifs at h <;> subst h
  case neg => exact absurd rfl hg
  all_goals exact ⟨by simp only [Target.offset]; omega, rfl⟩

/-- An access that names something has the offset and the width of what it names. -/
theorem locate_inv {n offset : Nat} {w : Width} {g : Target} (h : locate n offset w = g) (hg : g ≠ .undefinedOffset) :
    offset = g.offset ∧ w = g.width := by
  cases w with
  | byte => exact locateByte_inv h hg
  | word => exact locateWord_inv h hg
  | half | wide => exact absurd h.symm hg

/-! ## Where nothing is named -/

/-- The offsets at which R21 puts no register or element, `IBUF_MAX` being `n`. -/
def ReservedOffset (n offset : Nat) : Prop :=
  offset = 0x01C ∨ (0x050 ≤ offset ∧ offset ≤ 0x07F) ∨ (0x109 ≤ offset ∧ offset ≤ 0x1FF) ∨ 0x200 + n ≤ offset

theorem Target.offset_not_reserved {n : Nat} {g : Target} (hg : g ≠ .undefinedOffset) (hi : ∀ i, g = .ibuf i → i < n) :
    ¬ ReservedOffset n g.offset := by
  unfold ReservedOffset
  cases g with
  | undefinedOffset => exact absurd rfl hg
  | ibuf i =>
    have hlt : i < n := hi i rfl
    simp only [Target.offset]
    omega
  | _ => simp only [Target.offset]; omega

/-- Word registers stand aligned and below 0x040. -/
theorem Target.offset_of_word {g : Target} (hw : .word = g.width) : g.offset < 0x040 ∧ g.offset % 4 = 0 := by
  cases g with
  | tgt | hex | token | ibuf => cases hw
  | dout j => simp only [Target.offset]; omega
  | _ => decide

/-- Array elements stand from 0x040 on. -/
theorem Target.offset_of_byte {g : Target} (hw : .byte = g.width) : 0x040 ≤ g.offset := by
  cases g with
  | tgt | hex | token | ibuf => simp only [Target.offset]; omega
  | _ => cases hw

theorem locate_reserved {n offset : Nat} (w : Width) (h : ReservedOffset n offset) : locate n offset w = .undefinedOffset := by
  by_contra hne
  obtain ⟨hoffset, -⟩ := locate_inv rfl hne
  rw [hoffset] at h
  exact Target.offset_not_reserved hne (fun i hi => (locate_ibuf hi).1) h

theorem locate_byte_low (n : Nat) {offset : Nat} (h : offset < 0x040) : locate n offset .byte = .undefinedOffset := by
  by_contra hne
  obtain ⟨hoffset, hwidth⟩ := locate_inv rfl hne
  have hlow := Target.offset_of_byte hwidth
  omega

theorem locate_word_high (n : Nat) {offset : Nat} (h : 0x040 ≤ offset) : locate n offset .word = .undefinedOffset := by
  by_contra hne
  obtain ⟨hoffset, hwidth⟩ := locate_inv rfl hne
  have hhigh := (Target.offset_of_word hwidth).1
  omega

theorem locate_word_misaligned (n : Nat) {offset : Nat} (h : offset % 4 ≠ 0) : locate n offset .word = .undefinedOffset := by
  by_contra hne
  obtain ⟨hoffset, hwidth⟩ := locate_inv rfl hne
  have haligned := (Target.offset_of_word hwidth).2
  omega

/-! ## The statement -/

theorem Target.writable_iff (g : Target) : g.writable = true ↔ g = .cmd ∨ g = .cand ∨ g = .ilen ∨ ∃ i, g = .ibuf i := by
  cases g <;> simp [Target.writable]

/-- Settles O39: each register is found at its offset and width, and what an access names has that offset and width. -/
theorem registerMapIsOneToOne : Obligations.RegisterMapIsOneToOne := by
  unfold Obligations.RegisterMapIsOneToOne
  refine ⟨fun n => ?map, Target.writable_iff, ?find, ?inverse⟩
  case map =>
    exact ⟨rfl, rfl, rfl, rfl, rfl, rfl, rfl, locateWord_dout, locateByte_tgt n, locateByte_hex n, locateByte_token n,
      fun _ hi => locateByte_ibuf hi, fun _ w h => locate_reserved w h⟩
  case find => exact fun _ _ hg hi => locate_offset_width hg hi
  case inverse =>
    intro n offset w hne
    obtain ⟨hoffset, hwidth⟩ := locate_inv rfl hne
    exact ⟨hoffset, hwidth, fun i hi => (locate_ibuf hi).1⟩

end Sys2Proof.Machine
end

section
/-! SUPPORT. The bits of `STATUS` as the host reads it (R22). -/

namespace Sys2Proof.Machine

/-- The cause code as bits 11:8 show it (R22). -/
def Status.shownCause (f : Status) : BitVec 4 := if f.err then f.cause.code else 0

/-- The flag that stands in bit `k` of `STATUS`, none in bit 6 (R22). -/
def Status.flagBit (f : Status) (k : Nat) : Bool :=
  match k with
  | 0 => f.refv
  | 1 => f.vv
  | 2 => f.vv && f.verdict
  | 3 => f.vv && f.vpol
  | 4 => f.dv
  | 5 => f.tv
  | 6 => false
  | _ => f.err

/-- `STATUS` bit by bit: flags below bit 8, the cause code from there on. -/
theorem Status.toWord_getLsbD (f : Status) (k : Nat) :
    f.toWord.getLsbD k = if k < 8 then f.flagBit k else f.shownCause.getLsbD (k - 8) := by
  have happend : f.toWord.getLsbD k = ((0 : BitVec 20) ++ f.shownCause ++ BitVec.ofBool f.err ++ (0 : BitVec 1) ++
    BitVec.ofBool f.tv ++ BitVec.ofBool f.dv ++ BitVec.ofBool (f.vv && f.vpol) ++ BitVec.ofBool (f.vv && f.verdict) ++
    BitVec.ofBool f.vv ++ BitVec.ofBool f.refv).getLsbD k := rfl
  rw [happend]
  simp only [BitVec.getLsbD_append]
  by_cases hk : k < 8
  · rw [if_pos hk]
    interval_cases k <;> simp [Status.flagBit]
  · rw [if_neg hk]
    obtain ⟨j, rfl⟩ := Nat.exists_eq_add_of_le (Nat.not_lt.mp hk)
    simpa [Nat.add_comm 8 j] using BitVec.lt_of_getLsbD

/-- Settles O40, from `Status.toWord_getLsbD` at each bit. -/
theorem statusWordLayout : Obligations.StatusWordLayout := by
  unfold Obligations.StatusWordLayout
  intro f
  have hflag : ∀ k, k < 8 → f.toWord.getLsbD k = f.flagBit k := fun k hk => by rw [f.toWord_getLsbD, if_pos hk]
  have hcause : ∀ k, f.toWord.getLsbD (8 + k) = f.shownCause.getLsbD k := fun k => by
    rw [f.toWord_getLsbD, if_neg (by omega), Nat.add_sub_cancel_left]
  refine ⟨hflag 0 (by decide), hflag 1 (by decide), hflag 2 (by decide), hflag 3 (by decide), hflag 4 (by decide),
    hflag 5 (by decide), hflag 6 (by decide), hflag 7 (by decide), ?cause, ?reserved⟩
  case cause =>
    ext i hi
    rw [BitVec.getElem_extractLsb', hcause, BitVec.getLsbD_eq_getElem hi]
    rfl
  case reserved =>
    intro k hk
    obtain ⟨j, rfl⟩ := Nat.exists_eq_add_of_le hk
    rw [Nat.add_assoc 8 4 j, hcause]
    exact BitVec.getLsbD_of_ge _ _ (Nat.le_add_right 4 j)

end Sys2Proof.Machine
end

section
/-! SUPPORT. The host's accesses (R26 to R28, R58, R59): what an accepted input write, a bad access and a read do. -/

namespace Sys2Proof.Machine

/-! ## Writes -/

/-- While `ERR` = 0 a write is one to what its access names. -/
theorem hostWrite_of_locate {s : State} {offset : Nat} {d : Datum} {g : Target} (he : s.status.err = false)
    (hg : locate s.cfg.ibufMax offset d.width = g) : hostWrite offset d s = writeTarget g d s := by
  rw [hostWrite, he, hg]
  rfl

theorem writeIlen_of_le {s : State} {v : Word} (h : v.toNat ≤ s.cfg.ibufMax) : writeIlen v s = s.storeIlen v := by
  rw [writeIlen, if_neg (Nat.not_lt.mpr h)]

/-- A write to what the host may not write is a `BadAccess`, whatever it carries. -/
theorem writeTarget_of_not_writable {g : Target} (h : g.writable = false) (d : Datum) (s : State) :
    writeTarget g d s = .next (raiseFault .badAccess s) := by
  cases g with
  | cmd | cand | ilen | ibuf => cases h
  | _ => rfl

/-- Settles O41: each write is the store of its register. -/
theorem inputWriteClearsVerdict : Obligations.InputWriteClearsVerdict := by
  unfold Obligations.InputWriteClearsVerdict
  intro s he
  refine ⟨fun v => hostWrite_of_locate he rfl, fun v hv => ?ilen, fun i b hi => ?ibuf⟩
  case ilen =>
    calc hostWrite 0x00C (.word v) s
      _ = .next (writeIlen v s) := hostWrite_of_locate he rfl
      _ = .next (s.storeIlen v) := by rw [writeIlen_of_le hv]
  case ibuf =>
    exact ⟨Memory.write s.ibuf i b, hostWrite_of_locate (d := .byte b) he (locateByte_ibuf hi), s.ibufByte_storeIbuf_same i b,
      fun j hj => s.ibufByte_storeIbuf_other b hj⟩

/-- Settles O42: what is not writable takes no write, and a read changes no register. -/
theorem badAccessesStoreNothing : Obligations.BadAccessesStoreNothing := by
  unfold Obligations.BadAccessesStoreNothing
  refine ⟨fun n offset => ?misfit, fun s offset d he hd => ?write, fun s offset w _ => sameRegisters_hostRead offset w s⟩
  case misfit =>
    exact ⟨rfl, rfl, locate_byte_low n, locate_word_high n, locate_word_misaligned n⟩
  case write => exact (hostWrite_of_locate he rfl).trans (writeTarget_of_not_writable hd d s)

/-! ## Reads -/

/-- A read puts one value on the record, that of what it names where this has one. -/
theorem hostRead_value (offset : Nat) (w : Width) (s : State) :
    ∃ v n, hostRead offset w s = { s with reads := v :: s.reads, draws := n } ∧
      ∀ x, s.readTarget (locate s.cfg.ibufMax offset w) = some x → v = x := by
  unfold hostRead
  cases s.readTarget (locate s.cfg.ibufMax offset w) with
  | some v => exact ⟨v, s.draws, rfl, fun _ h => Option.some.inj h⟩
  | none => exact ⟨_, _, rfl, nofun⟩

/-- Settles O43: the value on the record is `State.readTarget` of what the access names. -/
theorem readsReturnRegisters : Obligations.ReadsReturnRegisters := by
  unfold Obligations.ReadsReturnRegisters
  intro s offset w rest hn
  obtain ⟨v, n, hread, hvalue⟩ := hostRead_value offset w { s with host := rest }
  refine ⟨v, n, ?step, ?value⟩
  case step => rw [step_of_nextEvent hn, hostEvent, hread]
  case value =>
    intro g hg
    have hv : ∀ {x}, s.readTarget g = some x → v = x := by
      subst hg
      exact hvalue _
    exact ⟨fun h => hv (by rw [h]; rfl), fun h => hv (by rw [h]; rfl), fun h => hv (by rw [h]; rfl),
      fun h => hv (by rw [h]; rfl), fun h hr => hv (by rw [h, State.readTarget, if_pos hr]),
      fun h hr => hv (by rw [h, State.readTarget, if_pos hr]), fun h hr => hv (by rw [h, State.readTarget, if_pos hr]),
      fun j h hd => hv (by rw [h, State.readTarget, if_pos hd]), fun i h => hv (by rw [h]; rfl),
      fun i h hd => hv (by rw [h, State.readTarget, if_pos hd]), fun i h ht => hv (by rw [h, State.readTarget, if_pos ht]),
      fun i h => hv (by rw [h]; rfl)⟩

end Sys2Proof.Machine
end

section
/-! SUPPORT. The outputs and the flags (R21, R22, R225): which instruction writes each, and which event sets each. -/

namespace Sys2Proof.Machine

/-! ## What an instruction may write -/

/-- A micro-op that answers a state has changed `MX` alone (R100). -/
theorem exec_micro_inv {i : Instr} {s t : State} (hc : i.isCommand = false) (h : exec i s = .next t) :
    t = { s with mixer := { s.mixer with mx := microOp i s.mixer.mx } } := by
  rw [exec_micro hc, runMicro] at h
  split at h <;> cases h
  rfl

/-- Settles O44: a micro-op writes no output, a fault `ERR` and `CAUSE` alone, and each command its own outputs. -/
theorem outputsHaveTheirWriters : Obligations.OutputsHaveTheirWriters := by
  unfold Obligations.OutputsHaveTheirWriters
  intro i s t h
  cases hc : i.isCommand with
  | false => simp [exec_micro_inv hc h]
  | true =>
    obtain ⟨rfl, -, -⟩ | ⟨rfl, -⟩ | ⟨rfl, rfl⟩ | ⟨rfl, -, rfl⟩ | ⟨rfl, -, -, rfl⟩ | ⟨rfl, -, -, rfl⟩ | ⟨rfl, -, rfl⟩ |
      ⟨rfl, -, rfl⟩ | ⟨rfl, rfl⟩ := exec_command_cases hc h
    all_goals simp

/-- No instruction clears `REFV`, `DV`, `TV` or `ERR`. -/
theorem exec_keeps_flags {i : Instr} {s t : State} (h : exec i s = .next t) :
    (s.status.refv = true → t.status.refv = true) ∧ (s.status.dv = true → t.status.dv = true) ∧
      (s.status.tv = true → t.status.tv = true) ∧ (s.status.err = true → t.status.err = true) := by
  cases hc : i.isCommand with
  | false => simp [exec_micro_inv hc h]
  | true =>
    obtain ⟨rfl, -, -⟩ | ⟨rfl, -⟩ | ⟨-, rfl⟩ | ⟨-, -, rfl⟩ | ⟨-, -, -, rfl⟩ | ⟨-, -, -, rfl⟩ | ⟨-, -, rfl⟩ | ⟨-, -, rfl⟩ |
      ⟨-, rfl⟩ := exec_command_cases hc h
    all_goals simp +contextual

/-! ## The word of a command (R72, R73) -/

/-- A command word with `ZERO` = 0 is made of its two other fields. -/
theorem cmdWord_fields {w : Word} (h : cmdZero w = 0) : cmdWord (cmdOpc w) (cmdPol w) = w := by
  have hpol : BitVec.ofBool (cmdPol w) = w.extractLsb' 4 1 := by
    ext k hk
    obtain rfl : k = 0 := by omega
    simp [cmdPol]
  have hhigh : cmdZero w ++ w.extractLsb' 4 1 = w.extractLsb' 4 28 :=
    BitVec.extractLsb'_append_extractLsb'_eq_extractLsb' rfl
  calc cmdWord (cmdOpc w) (cmdPol w)
    _ = cmdZero w ++ BitVec.ofBool (cmdPol w) ++ cmdOpc w := by rw [h]; rfl
    _ = w.extractLsb' 4 28 ++ w.extractLsb' 0 4 := by rw [hpol, hhigh]; rfl
    _ = w.extractLsb' 0 32 := BitVec.extractLsb'_append_extractLsb'_eq_extractLsb' rfl
    _ = w := BitVec.extractLsb'_eq_self

theorem encode_of_commandOf {opc : BitVec 4} {pol : Bool} {i : Instr} (h : commandOf opc pol = some i) :
    encode i = .command (cmdWord opc pol) := by
  have hall : ∀ (opc : BitVec 4) (pol : Bool), ∀ i ∈ commandOf opc pol, encode i = .command (cmdWord opc pol) := by decide
  exact hall opc pol i h

/-- A command is decoded from its own word and from no other. -/
theorem encode_of_decodeCommand {w : Word} {i : Instr} (h : decodeCommand w = some i) : encode i = .command w := by
  unfold decodeCommand at h
  split at h
  · next hz => rw [encode_of_commandOf h, cmdWord_fields hz]
  · cases h

/-! ## Which events set a flag -/

/-- The command that a step issues was issued by its word. -/
theorem IssueIsNext.of_decode {s : State} {w v : Word} {i : Instr} (h : IssueIsNext s w) (hd : decodeCommand w = some i)
    (hv : encode i = .command v) : IssueIsNext s v := by
  have hw : w = v := by
    rw [encode_of_decodeCommand hd] at hv
    exact CodeWord.command.inj hv
  exact hw ▸ h

/-- A step that is no Reset issues a command, or it leaves `REFV`, `DV` and `TV` as they are, and neither sets `VV` nor clears `ERR`. -/
theorem step_issues_or_keeps_flags {s t : State} (h : step s = .next t) (hr : ¬ ResetIsNext s) :
    (∃ w i rest, IssueIsNext s w ∧ decodeCommand w = some i ∧ exec i { s with host := rest } = .next t) ∨
    (t.status.refv = s.status.refv ∧ t.status.dv = s.status.dv ∧ t.status.tv = s.status.tv ∧
      (t.status.vv = true → s.status.vv = true) ∧ (s.status.err = true → t.status.err = true)) := by
  obtain ⟨u, i, -, -, rfl⟩ | ⟨-, -, rfl⟩ | ⟨rest, hn, -⟩ | ⟨offset, w, rest, -, rfl⟩ | ⟨offset, d, rest, hn, hw⟩ := step_cases h
  · exact .inr ⟨rfl, rfl, rfl, id, id⟩
  · exact .inr ⟨rfl, rfl, rfl, id, id⟩
  · exact absurd ⟨rest, hn⟩ hr
  · obtain ⟨v, n, hread⟩ := hostRead_eq offset w { s with host := rest }
    rw [hread]
    exact .inr ⟨rfl, rfl, rfl, id, id⟩
  · obtain ⟨-, rfl⟩ | ⟨he, ⟨c, -, rfl⟩ | ⟨v, rfl⟩ | ⟨v, -, rfl⟩ | ⟨i, b, -, rfl⟩ | ⟨w, i, hl, rfl, hd, hi⟩⟩ := hostWrite_cases hw
    · exact .inr ⟨rfl, rfl, rfl, id, id⟩
    · exact .inr ⟨rfl, rfl, rfl, id, fun _ => rfl⟩
    · exact .inr ⟨rfl, rfl, rfl, nofun, id⟩
    · exact .inr ⟨rfl, rfl, rfl, nofun, id⟩
    · exact .inr ⟨rfl, rfl, rfl, nofun, id⟩
    · obtain ⟨rfl, -⟩ := locate_inv hl nofun
      exact .inl ⟨w, i, rest, ⟨he, rest, hn⟩, hd, hi⟩

/-- Settles O46: an issued command sets only the flags it writes, and no other step but Reset sets or clears one. -/
theorem flagsChangeByTheirEvents : Obligations.FlagsChangeByTheirEvents := by
  unfold Obligations.FlagsChangeByTheirEvents
  intro s t h hr
  obtain ⟨w, i, rest, hw, hd, hi⟩ | ⟨hrefv, hdv, htv, hvv, herr⟩ := step_issues_or_keeps_flags h hr
  case inr =>
    rw [hrefv, hdv, htv]
    exact ⟨id, id, id, herr, .inl, fun h => .inl (hvv h), .inl, .inl⟩
  case inl =>
    obtain ⟨hrefv, hdv, htv, herr⟩ := exec_keeps_flags hi
    obtain ⟨hrefs, hdigest, htoken, hverdict⟩ := outputsHaveTheirWriters i { s with host := rest } t hi
    refine ⟨hrefv, hdv, htv, herr, fun ht => ?refv, fun ht => ?vv, fun ht => ?dv, fun ht => ?tv⟩
    case refv =>
      by_cases h1 : i = .derive
      · exact .inr (hw.of_decode hd (h1 ▸ rfl))
      · obtain ⟨-, -, -, heq⟩ := hrefs h1
        exact .inl (heq ▸ ht)
    case vv =>
      by_cases h1 : i = .verifyA
      · exact .inr (.inl (hw.of_decode hd (h1 ▸ rfl)))
      by_cases h2 : i = .verifyB
      · exact .inr (.inr (hw.of_decode hd (h2 ▸ rfl)))
      · obtain ⟨heq, -⟩ := hverdict h1 h2
        exact .inl (heq ▸ ht)
    case dv =>
      by_cases h1 : i = .digest
      · exact .inr (.inl (hw.of_decode hd (h1 ▸ rfl)))
      by_cases h2 : i = .emitA
      · exact .inr (.inr (.inl (hw.of_decode hd (h2 ▸ rfl))))
      by_cases h3 : i = .emitB
      · exact .inr (.inr (.inr (hw.of_decode hd (h3 ▸ rfl))))
      · obtain ⟨-, -, heq⟩ := hdigest h1 h2 h3
        exact .inl (heq ▸ ht)
    case tv =>
      by_cases h1 : i = .emitA
      · exact .inr (.inl (hw.of_decode hd (h1 ▸ rfl)))
      by_cases h2 : i = .emitB
      · exact .inr (.inr (hw.of_decode hd (h2 ▸ rfl)))
      · obtain ⟨-, heq⟩ := htoken h1 h2
        exact .inl (heq ▸ ht)

end Sys2Proof.Machine
end

section
/-! SUPPORT. The states of a run (R230): the invariants hold in each, and a faulted engine keeps its registers. -/

namespace Sys2Proof.Machine

/-- Settles O58, of every configuration at once. -/
theorem resetMeetsInvariants : Obligations.ResetMeetsInvariants := by
  unfold Obligations.ResetMeetsInvariants
  exact ⟨Inv.afterReset Config.cfg 0, Inv.afterReset⟩

/-- No instruction puts a micro-op word into the mixer. -/
theorem exec_uop {i : Instr} {s t : State} (h : exec i s = .next t) : t.uop = s.uop := by
  cases hc : i.isCommand with
  | false => rw [exec_micro_inv hc h]
  | true =>
    obtain ⟨rfl, -, -⟩ | ⟨rfl, -⟩ | ⟨-, rfl⟩ | ⟨-, -, rfl⟩ | ⟨-, -, -, rfl⟩ | ⟨-, -, -, rfl⟩ | ⟨-, -, rfl⟩ | ⟨-, -, rfl⟩ |
      ⟨-, rfl⟩ := exec_command_cases hc h
    all_goals rfl

theorem hostWrite_uop {offset : Nat} {d : Datum} {s t : State} (h : hostWrite offset d s = .next t) : t.uop = s.uop := by
  obtain ⟨-, rfl⟩ | ⟨-, ⟨c, -, rfl⟩ | ⟨v, rfl⟩ | ⟨v, -, rfl⟩ | ⟨i, b, -, rfl⟩ | ⟨w, i, -, -, -, hi⟩⟩ := hostWrite_cases h
  case inr.inr.inr.inr.inr => exact exec_uop hi
  all_goals rfl

/-- No step puts a micro-op word into the mixer (log 8). -/
theorem step_uop {s t : State} (hu : s.uop = none) (h : step s = .next t) : t.uop = none := by
  obtain ⟨u, i, -, -, rfl⟩ | ⟨-, -, rfl⟩ | ⟨rest, -, rfl⟩ | ⟨offset, w, rest, -, rfl⟩ | ⟨offset, d, rest, -, hw⟩ := step_cases h
  · rfl
  · exact hu
  · rfl
  · obtain ⟨v, n, hread⟩ := hostRead_eq offset w { s with host := rest }
    rw [hread]
    exact hu
  · exact (hostWrite_uop hw).trans hu

/-- While `ERR` = 1 no step but Reset changes a register: writes are ignored (R194, R195). -/
theorem step_sameRegisters_of_err {s t : State} (he : s.status.err = true) (h : step s = .next t) (hr : ¬ ResetIsNext s) :
    SameRegisters s t := by
  obtain ⟨u, i, -, -, rfl⟩ | ⟨-, -, rfl⟩ | ⟨rest, hn, -⟩ | ⟨offset, w, rest, -, rfl⟩ | ⟨offset, d, rest, -, hw⟩ := step_cases h
  · exact SameRegisters.refl s
  · exact SameRegisters.refl _
  · exact absurd ⟨rest, hn⟩ hr
  · exact sameRegisters_hostRead offset w { s with host := rest }
  · rw [hostWrite, if_pos he] at hw
    cases hw
    exact SameRegisters.refl s

/-- Every reachable state meets the invariants, and its mixer holds no micro-op word. -/
theorem Reachable.inv_and_uop {s : State} (h : Reachable s) : Inv s ∧ s.uop = none := by
  induction h with
  | start c n script => exact ⟨(Inv.afterReset c n).of_sameRegisters (SameRegisters.refl _), rfl⟩
  | next s t _ ht ih => exact ⟨stepKeepsInvariants s t ih.1 ht, step_uop ih.2 ht⟩

/-- Settles O60, by induction on the run. -/
theorem reachableStatesMeetInvariants : Obligations.ReachableStatesMeetInvariants := by
  unfold Obligations.ReachableStatesMeetInvariants
  intro s h
  obtain ⟨hinv, huop⟩ := h.inv_and_uop
  exact ⟨hinv, huop, fun t he ht hr => step_sameRegisters_of_err he ht hr⟩

end Sys2Proof.Machine
end

section
/-! SUPPORT. The transient storage of R31 carries nothing from one step to the next: a step of a state and a step of its wiped form
answer the same, up to wiping. -/

namespace Sys2Proof.Machine

/-- What a step answers, the transient storage of a next state wiped. -/
def wipedOutcome (o : Host.Outcome State Fault Refusal) : Host.Outcome State Fault Refusal :=
  match o with
  | .next t => .next t.wiped
  | .fault r => .fault r
  | .refused r => .refused r

@[simp] theorem wipedOutcome_next (t : State) : wipedOutcome (.next t) = .next t.wiped := rfl

theorem eq_next_of_wipedOutcome {o : Host.Outcome State Fault Refusal} {t : State} (h : wipedOutcome o = .next t) :
    ∃ t', o = .next t' ∧ t'.wiped = t := by
  cases o with
  | next t' => exact ⟨t', rfl, Host.Outcome.next.inj h⟩
  | fault r => cases h
  | refused r => cases h

/-! ## What is read of a state is no transient storage -/

@[simp] theorem State.wiped_cfg (s : State) : s.wiped.cfg = s.cfg := rfl
@[simp] theorem State.wiped_status (s : State) : s.wiped.status = s.status := rfl
@[simp] theorem State.wiped_cand (s : State) : s.wiped.cand = s.cand := rfl
@[simp] theorem State.wiped_uop (s : State) : s.wiped.uop = s.uop := rfl
@[simp] theorem State.wiped_host (s : State) : s.wiped.host = s.host := rfl

theorem State.wiped_input (s : State) : s.wiped.input = s.input := State.input_congr rfl rfl rfl

theorem State.wiped_transformed (s : State) : s.wiped.transformed = s.transformed := by
  have hbytes : s.wiped.ibufFrom 0 16 = s.ibufFrom 0 16 := State.ibufFrom_congr (fun _ => rfl) 0 16
  simp only [State.transformed, hbytes]
  rfl

theorem State.wiped_readTarget (s : State) (g : Target) : s.wiped.readTarget g = s.readTarget g := by
  cases g <;> rfl

/-- A digest writes what its message determines (R31), whatever the working storage held. -/
theorem State.digestInto_wiped (s : State) (msg : List Byte) : (s.wiped.digestInto msg).wiped = (s.digestInto msg).wiped := by
  simp only [State.digestInto, ShaRegs.run_hh]
  rfl

theorem State.emitFrom_wiped (s : State) (msg : List Byte) : (s.wiped.emitFrom msg).wiped = (s.emitFrom msg).wiped := by
  simp only [State.emitFrom, State.digestInto, ShaRegs.run_hh]
  rfl

/-! ## Instructions -/

theorem runMicro_wiped (i : Instr) (s : State) : wipedOutcome (runMicro i s.wiped) = wipedOutcome (runMicro i s) := by
  unfold runMicro
  split <;> rfl

theorem execVerifyA_wiped (s : State) : wipedOutcome (execVerifyA s.wiped) = wipedOutcome (execVerifyA s) := by
  cases hr : s.status.refv with
  | false => rw [execVerifyA_of_not_refv hr, execVerifyA_of_not_refv (s := s.wiped) hr]; rfl
  | true => rw [execVerifyA_of_refv hr, execVerifyA_of_refv (s := s.wiped) hr]; rfl

theorem execVerifyB_wiped (s : State) : wipedOutcome (execVerifyB s.wiped) = wipedOutcome (execVerifyB s) := by
  cases hr : s.status.refv with
  | false => rw [execVerifyB_of_not_refv hr, execVerifyB_of_not_refv (s := s.wiped) hr]; rfl
  | true =>
    by_cases hl : s.ilen = 16
    · rw [execVerifyB_of_length hr hl, execVerifyB_of_length (s := s.wiped) hr hl, State.wiped_transformed]; rfl
    · rw [execVerifyB_of_other_length hr hl, execVerifyB_of_other_length (s := s.wiped) hr hl]; rfl

theorem execEmitA_wiped (s : State) : wipedOutcome (execEmitA s.wiped) = wipedOutcome (execEmitA s) := by
  rw [execEmitA, execEmitA, State.wiped_status, State.wiped_cand]
  split
  · exact congrArg Host.Outcome.next (s.emitFrom_wiped (decRender s.cand))
  · rfl

theorem execEmitB_wiped (s : State) : wipedOutcome (execEmitB s.wiped) = wipedOutcome (execEmitB s) := by
  rw [execEmitB, execEmitB, State.wiped_status, State.wiped_input]
  split
  · exact congrArg Host.Outcome.next (s.emitFrom_wiped s.input)
  · rfl

theorem execDigest_wiped (s : State) : wipedOutcome (execDigest s.wiped) = wipedOutcome (execDigest s) := by
  rw [execDigest, execDigest, State.wiped_status, State.wiped_input]
  simp only [State.digestInto, ShaRegs.run_hh]
  rfl

/-- No instruction reads the transient storage for anything but the transient storage. -/
theorem exec_wiped (i : Instr) (s : State) : wipedOutcome (exec i s.wiped) = wipedOutcome (exec i s) := by
  cases i with
  | derive => rfl
  | verifyA => exact execVerifyA_wiped s
  | verifyB => exact execVerifyB_wiped s
  | emitA => exact execEmitA_wiped s
  | emitB => exact execEmitB_wiped s
  | digest => exact execDigest_wiped s
  | mnop | rotl | rotr | swaph | bswap | swapg | xorc | mulc =>
    rw [exec_micro rfl, exec_micro rfl]
    exact runMicro_wiped _ s

/-! ## Host events and steps -/

theorem issue_wiped (w : Word) (s : State) : wipedOutcome (issue w s.wiped) = wipedOutcome (issue w s) := by
  unfold issue
  cases decode (.command w) with
  | some i => exact exec_wiped i s
  | none => rfl

theorem writeIlen_wiped (v : Word) (s : State) : (writeIlen v s.wiped).wiped = (writeIlen v s).wiped := by
  rw [writeIlen, writeIlen, State.wiped_cfg]
  split <;> rfl

theorem writeTarget_wiped (g : Target) (d : Datum) (s : State) :
    wipedOutcome (writeTarget g d s.wiped) = wipedOutcome (writeTarget g d s) := by
  unfold writeTarget
  split
  · exact issue_wiped _ s
  · exact congrArg Host.Outcome.next (writeIlen_wiped _ s)
  · rfl
  · rfl
  · rfl

theorem hostWrite_wiped (offset : Nat) (d : Datum) (s : State) :
    wipedOutcome (hostWrite offset d s.wiped) = wipedOutcome (hostWrite offset d s) := by
  rw [hostWrite, hostWrite, State.wiped_status, State.wiped_cfg]
  split
  · rfl
  · exact writeTarget_wiped _ d s

theorem hostRead_wiped (offset : Nat) (w : Width) (s : State) : (hostRead offset w s.wiped).wiped = (hostRead offset w s).wiped := by
  rw [hostRead, hostRead, State.wiped_cfg, State.wiped_readTarget]
  split <;> rfl

theorem hostEvent_wiped (e : HostEvent) (s : State) : wipedOutcome (hostEvent e s.wiped) = wipedOutcome (hostEvent e s) := by
  cases e with
  | reset => rfl
  | write offset d => exact hostWrite_wiped offset d s
  | read offset w => exact congrArg Host.Outcome.next (hostRead_wiped offset w s)

theorem runMicroWord_wiped (u : MicroWord) (s : State) :
    wipedOutcome (runMicroWord u s.wiped) = wipedOutcome (runMicroWord u s) := by
  unfold runMicroWord
  cases decode (.micro u) with
  | some i => exact exec_wiped i s
  | none => rfl

/-- A step of the wiped state answers what a step of the state does, up to wiping. -/
theorem step_wiped (s : State) : wipedOutcome (step s.wiped) = wipedOutcome (step s) := by
  rw [step, step, stepOnce, stepOnce, State.wiped_uop, State.wiped_host]
  cases s.uop with
  | some u => exact runMicroWord_wiped u { s with uop := none }
  | none =>
    cases s.host with
    | nil => rfl
    | cons e rest => exact hostEvent_wiped e { s with uop := none, host := rest }

/-- Settles O47: both states step as their common wiped form does. -/
theorem hiddenStorageStaysHidden : Obligations.HiddenStorageStaysHidden := by
  unfold Obligations.HiddenStorageStaysHidden
  intro s s' t hwiped ht
  have hstep : wipedOutcome (step s') = .next t.wiped :=
    calc wipedOutcome (step s')
      _ = wipedOutcome (step s'.wiped) := (step_wiped s').symm
      _ = wipedOutcome (step s.wiped) := by rw [hwiped]
      _ = wipedOutcome (step s) := step_wiped s
      _ = .next t.wiped := by rw [ht, wipedOutcome_next]
  exact eq_next_of_wipedOutcome hstep

end Sys2Proof.Machine
end

section
/-! SUPPORT. What no instruction writes (R60): the input registers and array, the configuration and the host's side. -/

namespace Sys2Proof.Machine

/-- A micro-op changes the mixer alone, a fault the flags, and a command its outputs, its working storage and the flags. -/
theorem exec_keeps_input_fields {i : Instr} {s t : State} (h : exec i s = .next t) :
    t.cand = s.cand ∧ t.ilen = s.ilen ∧ t.ibuf = s.ibuf ∧ t.cfg = s.cfg ∧ t.host = s.host ∧ t.reads = s.reads ∧
      t.draws = s.draws ∧ t.resets = s.resets := by
  cases hc : i.isCommand with
  | false => simp [exec_micro_inv hc h]
  | true =>
    obtain ⟨rfl, -, -⟩ | ⟨rfl, -⟩ | ⟨-, rfl⟩ | ⟨-, -, rfl⟩ | ⟨-, -, -, rfl⟩ | ⟨-, -, -, rfl⟩ | ⟨-, -, rfl⟩ | ⟨-, -, rfl⟩ |
      ⟨-, rfl⟩ := exec_command_cases hc h
    all_goals simp

/-- A byte of `IBUF` is determined by the written cells and the Reset they date from. -/
theorem State.ibufByte_congr {s t : State} (hm : s.ibuf = t.ibuf) (hr : s.resets = t.resets) (k : Nat) :
    s.ibufByte k = t.ibufByte k := by
  rw [State.ibufByte, State.ibufByte, hm, hr]

/-- Settles O45: the fields are kept, and the bytes of `IBUF` and the input sequence are determined by them. -/
theorem instructionsKeepInputs : Obligations.InstructionsKeepInputs := by
  unfold Obligations.InstructionsKeepInputs
  intro i s t h
  obtain ⟨hcand, hilen, hibuf, hcfg, hhost, hreads, hdraws, hresets⟩ := exec_keeps_input_fields h
  exact ⟨hcand, hilen, hibuf, State.ibufByte_congr hibuf hresets, State.input_congr hilen hibuf hresets, hcfg, hhost, hreads,
    hdraws, hresets, exec_uop h⟩

end Sys2Proof.Machine
end

section
/-! SUPPORT. The two instruction formats (R70 to R80): a word decodes to an instruction exactly when it is that instruction's word. -/

namespace Sys2Proof.Machine

/-! ## The micro-op word and its fields (R75) -/

/-- A micro-op word with `Z1` = `Z2` = 0 is made of its three other fields. -/
theorem microWord_fields {u : MicroWord} (h1 : uZ1 u = 0) (h2 : uZ2 u = 0) : microWord (uMop u) (uAmt u) (uImm u) = u := by
  have hmop : uMop u ++ uZ1 u = u.extractLsb' 53 11 := BitVec.extractLsb'_append_extractLsb'_eq_extractLsb' rfl
  have hamt : u.extractLsb' 53 11 ++ uAmt u = u.extractLsb' 48 16 := BitVec.extractLsb'_append_extractLsb'_eq_extractLsb' rfl
  have hz2 : u.extractLsb' 48 16 ++ uZ2 u = u.extractLsb' 32 32 := BitVec.extractLsb'_append_extractLsb'_eq_extractLsb' rfl
  have himm : u.extractLsb' 32 32 ++ uImm u = u.extractLsb' 0 64 := BitVec.extractLsb'_append_extractLsb'_eq_extractLsb' rfl
  calc microWord (uMop u) (uAmt u) (uImm u)
    _ = uMop u ++ uZ1 u ++ uAmt u ++ uZ2 u ++ uImm u := by rw [h1, h2]; rfl
    _ = u.extractLsb' 0 64 := by rw [hmop, hamt, hz2, himm]
    _ = u := BitVec.extractLsb'_eq_self

/-- The row that three fields spell has them as its word's fields (R76). -/
theorem encode_of_microOf {mop : BitVec 8} {amt : BitVec 5} {imm : Word} {i : Instr} (h : microOf mop amt imm = some i) :
    encode i = .micro (microWord mop amt imm) := by
  have hop : mop = BitVec.ofNat 8 mop.toNat := by simp
  unfold microOf at h
  split at h
  case h_9 => cases h
  case h_6 hmop =>
    obtain rfl := hop.trans (congrArg (BitVec.ofNat 8) hmop)
    cases h
    rfl
  all_goals
    next hmop =>
    obtain rfl := hop.trans (congrArg (BitVec.ofNat 8) hmop)
    split at h <;> cases h
    next hfree =>
    simp only [hfree]
    rfl

/-- The word of a micro-op is made of fields that spell it. -/
theorem microOf_of_encode {u : MicroWord} {i : Instr} (h : encode i = .micro u) :
    ∃ mop amt imm, u = microWord mop amt imm ∧ microOf mop amt imm = some i := by
  cases i with
  | derive | verifyA | verifyB | emitA | emitB | digest => cases h
  | _ => cases h; exact ⟨_, _, _, rfl, rfl⟩

/-! ## Decoding as the inverse of encoding (R79) -/

/-- A micro-op word decodes to the well-formed instruction whose word it is. -/
theorem decodeMicro_eq_some_iff {u : MicroWord} {i : Instr} : decodeMicro u = some i ↔ encode i = .micro u ∧ i.wf = true := by
  constructor
  · intro h
    unfold decodeMicro at h
    split at h
    case isFalse => cases h
    case isTrue hz =>
      obtain ⟨hrow, hwf⟩ := Option.filter_eq_some_iff.mp h
      rw [encode_of_microOf hrow, microWord_fields hz.1 hz.2]
      exact ⟨rfl, hwf⟩
  · rintro ⟨h, hwf⟩
    obtain ⟨mop, amt, imm, rfl, hrow⟩ := microOf_of_encode h
    rw [decodeMicro, if_pos ⟨uZ1_microWord mop amt imm, uZ2_microWord mop amt imm⟩, uMop_microWord, uAmt_microWord,
      uImm_microWord, hrow, Option.filter_some_pos hwf]

/-- A command word decodes to the command whose word it is. -/
theorem decodeCommand_eq_some_iff {w : Word} {i : Instr} : decodeCommand w = some i ↔ encode i = .command w := by
  refine ⟨encode_of_decodeCommand, fun h => ?_⟩
  cases i with
  | derive | verifyA | verifyB | emitA | emitB | digest => cases h; rfl
  | _ => cases h

/-- A word in its place decodes to the well-formed instruction whose word it is. -/
theorem decode_eq_some_iff {c : CodeWord} {i : Instr} : decode c = some i ↔ encode i = c ∧ i.wf = true := by
  cases c with
  | micro u => exact decodeMicro_eq_some_iff
  | command w =>
    refine decodeCommand_eq_some_iff.trans ⟨fun h => ⟨h, ?_⟩, And.left⟩
    cases i with
    | derive | verifyA | verifyB | emitA | emitB | digest => rfl
    | _ => cases h

/-- Settles O1: `decode` answers an instruction exactly on its own word, so equal words give equal instructions. -/
theorem decodeInvertsEncode : Obligations.DecodeInvertsEncode := by
  unfold Obligations.DecodeInvertsEncode
  have hround : ∀ i : Instr, i.wf = true → decode (encode i) = some i := fun i hi => decode_eq_some_iff.mpr ⟨rfl, hi⟩
  refine ⟨hround, fun i j hi hj hij => ?injective, fun u => ?total⟩
  case injective => exact Option.some.inj ((hround i hi).symm.trans (hij ▸ hround j hj))
  case total =>
    cases hd : decodeMicro u with
    | none => exact .inl rfl
    | some i =>
      obtain ⟨hwf, hmicro⟩ := decodeMicro_sound hd
      exact .inr ⟨i, rfl, hmicro, hwf⟩

/-- Settles O2, by `decodeMicro_eq_some_iff` and `encode_of_decodeCommand`. -/
theorem encodeInvertsDecode : Obligations.EncodeInvertsDecode := by
  unfold Obligations.EncodeInvertsDecode
  exact ⟨fun _ _ h => (decodeMicro_eq_some_iff.mp h).1, fun _ _ => encode_of_decodeCommand⟩

/-! ## The rows of the micro-op map (R76) -/

/-- The word of every instruction matches the instruction's row and holds its operands. -/
theorem encode_matches_row (i : Instr) : Laws.TableRow.Statement i := by
  cases i with
  | derive => exact Laws.TableRow.derive
  | verifyA => exact Laws.TableRow.verifyA
  | verifyB => exact Laws.TableRow.verifyB
  | emitA => exact Laws.TableRow.emitA
  | emitB => exact Laws.TableRow.emitB
  | digest => exact Laws.TableRow.digest
  | mnop => exact Laws.TableRow.mnop
  | rotl n => exact Laws.TableRow.rotl n
  | rotr n => exact Laws.TableRow.rotr n
  | swaph => exact Laws.TableRow.swaph
  | bswap => exact Laws.TableRow.bswap
  | swapg m s => exact Laws.TableRow.swapg m s
  | xorc c => exact Laws.TableRow.xorc c
  | mulc c => exact Laws.TableRow.mulc c

/-- A masked comparison fixes every field that the mask covers. -/
theorem extractLsb'_of_masked {u mask mt : MicroWord} {lo n : Nat} {x : BitVec n} (h : u &&& mask = mt)
    (hm : mask.extractLsb' lo n = BitVec.allOnes n) (hx : mt.extractLsb' lo n = x) : u.extractLsb' lo n = x := by
  rw [← hx, ← h, BitVec.extractLsb'_and, hm, BitVec.and_allOnes]

/-- A mask that covers `MOP`, `Z1` and `Z2` leaves only `AMT` and `IMM` open. -/
theorem microWord_of_masked {u mask mt : MicroWord} (h : u &&& mask = mt)
    (hmask : mask &&& 0xFFE0FFFF00000000 = 0xFFE0FFFF00000000) (hmt : mt &&& 0x00E0FFFF00000000 = 0) :
    microWord (uMop mt) (uAmt u) (uImm u) = u := by
  have hmop : uMop u = uMop mt := extractLsb'_of_masked h (extractLsb'_of_masked hmask rfl rfl) rfl
  have hz1 : uZ1 u = 0 := extractLsb'_of_masked h (extractLsb'_of_masked hmask rfl rfl) (extractLsb'_of_masked hmt rfl rfl)
  have hz2 : uZ2 u = 0 := extractLsb'_of_masked h (extractLsb'_of_masked hmask rfl rfl) (extractLsb'_of_masked hmt rfl rfl)
  rw [← hmop, microWord_fields hz1 hz2]

/-- A word that matches a micro-op's row and holds its operands is its word: the mask covers every field that is no operand. -/
theorem encode_of_row {u : MicroWord} {i : Instr} (hc : i.isCommand = false) (h : u &&& i.tableRow.2 = i.tableRow.1)
    (ho : i.operandsAre u = true) : encode i = .micro u := by
  cases i with
  | derive | verifyA | verifyB | emitA | emitB | digest => cases hc
  | mnop | swaph | bswap =>
    simp only [Instr.tableRow] at h
    have hamt : uAmt u = 0 := extractLsb'_of_masked h rfl rfl
    have himm : uImm u = 0 := extractLsb'_of_masked h rfl rfl
    rw [← microWord_of_masked h rfl rfl, hamt, himm]
    rfl
  | rotl n | rotr n =>
    simp only [Instr.tableRow] at h
    have himm : uImm u = 0 := extractLsb'_of_masked h rfl rfl
    rw [← microWord_of_masked h rfl rfl, himm, eq_of_beq ho]
    rfl
  | xorc c | mulc c =>
    simp only [Instr.tableRow] at h
    have hamt : uAmt u = 0 := extractLsb'_of_masked h rfl rfl
    rw [← microWord_of_masked h rfl rfl, hamt, eq_of_beq ho]
    rfl
  | swapg m s =>
    simp only [Instr.tableRow] at h
    obtain ⟨himm, hamt⟩ := Bool.and_eq_true_iff.mp ho
    rw [← microWord_of_masked h rfl rfl, eq_of_beq himm, eq_of_beq hamt]
    rfl

/-- Settles O3: a micro-op's word is the one word that matches its row and holds its operands. -/
theorem microDecodeFollowsTable : Obligations.MicroDecodeFollowsTable := by
  unfold Obligations.MicroDecodeFollowsTable
  intro u i hc
  rw [decodeMicro_eq_some_iff, ← and_assoc]
  refine and_congr_left' ⟨fun h => ?_, fun ⟨hrow, ho⟩ => encode_of_row hc hrow ho⟩
  have hrow := encode_matches_row i
  rwa [Laws.TableRow.Statement, h] at hrow

/-! ## Illegal command words (R74) -/

/-- The words of the six commands (R73). -/
theorem exists_encode_eq_command_iff (w : Word) :
    (∃ i, encode i = .command w) ↔ w ∈ ([0x01, 0x02, 0x12, 0x03, 0x13, 0x04] : List Word) := by
  constructor
  · rintro ⟨i, h⟩
    cases i with
    | derive | verifyA | verifyB | emitA | emitB | digest => cases h; decide
    | _ => cases h
  · intro h
    simp only [List.mem_cons, List.not_mem_nil, or_false] at h
    obtain rfl | rfl | rfl | rfl | rfl | rfl := h
    exacts [⟨.derive, rfl⟩, ⟨.verifyA, rfl⟩, ⟨.verifyB, rfl⟩, ⟨.emitA, rfl⟩, ⟨.emitB, rfl⟩, ⟨.digest, rfl⟩]

theorem decodeCommand_eq_none_iff (w : Word) :
    decodeCommand w = none ↔ w ∉ ([0x01, 0x02, 0x12, 0x03, 0x13, 0x04] : List Word) := by
  simp only [← exists_encode_eq_command_iff, ← decodeCommand_eq_some_iff, ← Option.isSome_iff_exists,
    Option.not_isSome_iff_eq_none]

/-- An accepted write of an illegal word to `CMD` raises the fault and does nothing else. -/
theorem hostWrite_cmd_of_illegal {s : State} {w : Word} (he : s.status.err = false) (hd : decodeCommand w = none) :
    hostWrite 0x000 (.word w) s = .next (raiseFault .illegalCommand s) :=
  calc hostWrite 0x000 (.word w) s
    _ = writeTarget .cmd (.word w) s := hostWrite_of_locate he rfl
    _ = issue w s := rfl
    _ = .next (raiseFault .illegalCommand s) := by simp only [issue, decode, hd]

/-- Settles O4, from the list of the six command words. -/
theorem illegalCommandWordsFault : Obligations.IllegalCommandWordsFault := by
  unfold Obligations.IllegalCommandWordsFault
  exact fun w s he =>
    ⟨decodeCommand_eq_none_iff w, fun hw => hostWrite_cmd_of_illegal he ((decodeCommand_eq_none_iff w).mpr hw)⟩

/-! ## Reserved micro-op words (R78) -/

/-- The opcodes from 8 on are reserved (R76). -/
theorem microOf_eq_none {mop : BitVec 8} {amt : BitVec 5} {imm : Word} (h : 8 ≤ mop.toNat) : microOf mop amt imm = none := by
  unfold microOf
  split
  case h_9 => rfl
  all_goals omega

/-- Three fields spell no well-formed micro-op exactly when they break the constraint of their row. -/
theorem microOf_filter_eq_none_iff (mop : BitVec 8) (amt : BitVec 5) (imm : Word) :
    (microOf mop amt imm).filter Instr.wf = none ↔
      (8 ≤ mop.toNat ∨
        ((mop = 1 ∨ mop = 2 ∨ mop = 5) ∧ amt = 0) ∨
        ((mop = 0 ∨ mop = 3 ∨ mop = 4) ∧ (amt ≠ 0 ∨ imm ≠ 0)) ∨
        ((mop = 6 ∨ mop = 7) ∧ amt ≠ 0) ∨
        ((mop = 1 ∨ mop = 2) ∧ imm ≠ 0) ∨
        (mop = 7 ∧ imm.getLsbD 0 = false) ∨
        (mop = 5 ∧ (imm = 0 ∨ imm >>> (32 - amt.toNat) ≠ 0 ∨ imm &&& (imm <<< amt.toNat) ≠ 0))) := by
  obtain hmop | hmop := Nat.lt_or_ge mop.toNat 8
  case inr => exact iff_of_true (by rw [microOf_eq_none hmop]; rfl) (.inl hmop)
  case inl =>
    -- one goal for each row of the map
    have hop : mop = BitVec.ofNat 8 mop.toNat := by simp
    generalize mop.toNat = k at hmop hop
    subst hop
    interval_cases k <;> simp [microOf, Instr.wf, swapgOk] <;> tauto

/-- The invalid micro-op words: a must-be-zero field is not 0, or the other three break the constraint of their row. -/
theorem decodeMicro_eq_none_iff (u : MicroWord) :
    decodeMicro u = none ↔
      uZ1 u ≠ 0 ∨ uZ2 u ≠ 0 ∨ (microOf (uMop u) (uAmt u) (uImm u)).filter Instr.wf = none := by
  unfold decodeMicro
  split
  · next hz => simp [hz]
  · next hz => simp only [true_iff]; tauto

theorem isPrimitive_eq_false_iff (u : MicroWord) : isPrimitive u = false ↔ decodeMicro u = none ∨ u = 0 := by
  have hmnop : decodeMicro u = some .mnop ↔ u = 0 := by
    rw [decodeMicro_eq_some_iff]
    exact ⟨fun h => (CodeWord.micro.inj h.1).symm, fun h => h ▸ ⟨rfl, rfl⟩⟩
  rw [← hmnop, isPrimitive]
  split <;> simp_all

/-- A stage is ill formed when one of its words is invalid, or when slot 0 or 1 holds `MNOP`, the word 0 (R80). -/
theorem stageRom_ok_eq_false_iff (r : StageRom) :
    r.ok = false ↔ decodeMicro r.w0 = none ∨ decodeMicro r.w1 = none ∨ decodeMicro r.w2 = none ∨ r.w0 = 0 ∨ r.w1 = 0 := by
  simp only [StageRom.ok, Bool.and_eq_false_iff, isPrimitive_eq_false_iff, Option.isSome_eq_false_iff, Option.isNone_iff_eq_none]
  tauto

/-- No configuration is built from data that fail the check of R9. -/
theorem cfg_ofData_eq_none {d : CfgData} (h : d.rom1.ok = false ∨ d.rom2.ok = false ∨ d.rom3.ok = false) :
    Cfg.ofData d = none := by
  have hd : d.ok = false := by
    obtain h | h | h := h <;> simp [CfgData.ok, h]
  rw [Cfg.ofData, dif_neg (by simp [hd])]

theorem hostWrite_cfg {offset : Nat} {d : Datum} {s t : State} (h : hostWrite offset d s = .next t) : t.cfg = s.cfg := by
  obtain ⟨-, rfl⟩ | ⟨-, ⟨c, -, rfl⟩ | ⟨v, rfl⟩ | ⟨v, -, rfl⟩ | ⟨i, b, -, rfl⟩ | ⟨w, i, -, -, -, hi⟩⟩ := hostWrite_cases h
  case inr.inr.inr.inr.inr =>
    obtain ⟨-, -, -, hcfg, -⟩ := exec_keeps_input_fields hi
    exact hcfg
  all_goals rfl

/-- No step changes the configuration, the stage ROM included (R78). -/
theorem step_cfg {s t : State} (h : step s = .next t) : t.cfg = s.cfg := by
  obtain ⟨u, i, -, -, rfl⟩ | ⟨-, -, rfl⟩ | ⟨rest, -, rfl⟩ | ⟨offset, w, rest, -, rfl⟩ | ⟨offset, d, rest, -, hw⟩ := step_cases h
  case inr.inr.inr.inl => exact (sameRegisters_hostRead offset w { s with host := rest }).1
  case inr.inr.inr.inr => exact hostWrite_cfg (s := { s with host := rest }) hw
  all_goals rfl

/-- An operand outside its constraint is refused by name (log 11). -/
theorem exec_of_not_wf {i : Instr} (h : i.wf = false) (s : State) : exec i s = .refused .invalidMicroOp := by
  have hc : i.isCommand = false := by
    cases i with
    | derive | verifyA | verifyB | emitA | emitB | digest => cases h
    | _ => rfl
  rw [exec_micro hc, runMicro, if_neg (by simp [h])]

/-- Settles O5: the invalid words by `decodeMicro_eq_none_iff` and the rows' constraints, the rest clause by clause. -/
theorem reservedMicroWordsRejected : Obligations.ReservedMicroWordsRejected := by
  unfold Obligations.ReservedMicroWordsRejected
  refine ⟨fun u => ?words, stageRom_ok_eq_false_iff, fun _ => cfg_ofData_eq_none, fun _ _ => step_cfg,
    fun _ s h => exec_of_not_wf h s⟩
  rw [decodeMicro_eq_none_iff, microOf_filter_eq_none_iff, ← or_assoc, or_left_comm, or_assoc]

/-! ## Words written out (R73, R76) -/

theorem decodeTableWord_of_encode_command {w : Nat} {i : Instr} (h : encode i = .command (BitVec.ofNat 32 w)) :
    decodeTableWord 32 w = some i :=
  decodeCommand_eq_some_iff.mpr h

theorem decodeTableWord_of_encode_micro {w : Nat} {i : Instr} (h : encode i = .micro (BitVec.ofNat 64 w))
    (hwf : i.wf = true) : decodeTableWord 64 w = some i :=
  decodeMicro_eq_some_iff.mpr ⟨h, hwf⟩

/-- Settles O6: each word is the encoding of the well-formed instruction it decodes to. -/
theorem writtenOutWordsDecode : Obligations.WrittenOutWordsDecode := by
  unfold Obligations.WrittenOutWordsDecode
  refine ⟨?derive, ?verifyB, ?emitA, ?rotl, ?swapg, ?mulc⟩
  case derive | verifyB | emitA => exact decodeTableWord_of_encode_command rfl
  case rotl | swapg | mulc => exact decodeTableWord_of_encode_micro (by decide) (by decide)

end Sys2Proof.Machine
end

section
/-! SUPPORT. The mixer's micro-ops bit by bit (R100 to R109): what each does to the word in `MX`, and what undoes it. -/

namespace Sys2Proof.Machine

/-! ## The word of a micro-op -/

/-- A word that decodes to a micro-op has the fields its encoding is made of. -/
theorem fields_of_decodeMicro {u : MicroWord} {i : Instr} {mop : BitVec 8} {amt : BitVec 5} {imm : Word}
    (h : decodeMicro u = some i) (he : encode i = .micro (microWord mop amt imm)) : uMop u = mop ∧ uAmt u = amt ∧ uImm u = imm := by
  obtain rfl := CodeWord.micro.inj (he.symm.trans (decodeMicro_eq_some_iff.mp h).1)
  exact ⟨uMop_microWord mop amt imm, uAmt_microWord mop amt imm, uImm_microWord mop amt imm⟩

/-! ## Rotates (R102, R103) -/

theorem rotl_wf_iff {n : BitVec 5} : (Instr.rotl n).wf = true ↔ n ≠ 0 := bne_iff_ne

theorem rotr_wf_iff {n : BitVec 5} : (Instr.rotr n).wf = true ↔ n ≠ 0 := bne_iff_ne

theorem toNat_pos_of_ne_zero {n : BitVec 5} (h : n ≠ 0) : 0 < n.toNat :=
  Nat.pos_of_ne_zero fun h0 => h (BitVec.eq_of_toNat_eq h0)

theorem rotl_eq_rotr (x : Word) {n : Nat} (hn : n ≤ 32) : rotl x n = rotr x (32 - n) := by
  rw [rotl, rotr, Nat.sub_sub_self hn, BitVec.or_comm]

theorem rotr_eq_rotl (x : Word) {n : Nat} (hn : n ≤ 32) : rotr x n = rotl x (32 - n) := by
  rw [rotl_eq_rotr x (Nat.sub_le 32 n), Nat.sub_sub_self hn]

theorem rotr_getLsbD (x : Word) {n k : Nat} (hn : n < 32) (hk : k < 32) : (rotr x n).getLsbD k = x.getLsbD ((k + n) % 32) := by
  have hrot : rotr x n = x.rotateRight n := by rw [BitVec.rotateRight_def, Nat.mod_eq_of_lt hn]; rfl
  rw [hrot, BitVec.getLsbD_rotateRight, Nat.mod_eq_of_lt hn, Bool.cond_decide, decide_eq_true hk, Bool.true_and]
  split
  · rw [Nat.mod_eq_of_lt (by omega), Nat.add_comm]
  · congr 1
    omega

theorem rotl_getLsbD (x : Word) {n k : Nat} (h0 : 0 < n) (hn : n < 32) (hk : k < 32) :
    (rotl x n).getLsbD ((k + n) % 32) = x.getLsbD k := by
  rw [rotl_eq_rotr x hn.le, rotr_getLsbD x (by omega) (by omega)]
  congr 1
  omega

theorem rotr_rotl (x : Word) {n : Nat} (h0 : 0 < n) (hn : n < 32) : rotr (rotl x n) n = x :=
  BitVec.eq_of_getLsbD_eq fun _ hk => (rotr_getLsbD _ hn hk).trans (rotl_getLsbD x h0 hn hk)

theorem rotl_rotr (x : Word) {n : Nat} (h0 : 0 < n) (hn : n < 32) : rotl (rotr x n) n = x := by
  rw [rotl_eq_rotr _ hn.le, rotr_eq_rotl x hn.le]
  exact rotr_rotl x (by omega) (by omega)

theorem rotlFn_rotrFn {n : BitVec 5} (h : n ≠ 0) (x : Word) : rotlFn n (rotrFn n x) = x :=
  rotl_rotr x (toNat_pos_of_ne_zero h) n.isLt

theorem rotrFn_rotlFn {n : BitVec 5} (h : n ≠ 0) (x : Word) : rotrFn n (rotlFn n x) = x :=
  rotr_rotl x (toNat_pos_of_ne_zero h) n.isLt

/-- Settles O9, by the bit equation of `rotl` and the rotates undoing each other. -/
theorem rotlMovesBitsUp : Obligations.RotlMovesBitsUp := by
  unfold Obligations.RotlMovesBitsUp
  refine ⟨fun n s hn => ⟨rotlFn n s.mixer.mx, exec_micro_next rfl (rotl_wf_iff.mpr hn) s, fun k hk => ?bits,
    rotl_eq_rotr _ n.isLt.le, rotrFn_rotlFn hn _, rotlFn_rotrFn hn _⟩, fun u n h => ?fields⟩
  case bits => exact rotl_getLsbD _ (toNat_pos_of_ne_zero hn) n.isLt hk
  case fields =>
    obtain ⟨hmop, hamt, -⟩ := fields_of_decodeMicro h rfl
    exact ⟨hmop, hamt, rotl_wf_iff.mp (decodeMicro_sound h).1⟩

/-- Settles O10, by the bit equation of `rotr` and the rotates undoing each other. -/
theorem rotrMovesBitsDown : Obligations.RotrMovesBitsDown := by
  unfold Obligations.RotrMovesBitsDown
  refine ⟨fun n s hn => ⟨rotrFn n s.mixer.mx, exec_micro_next rfl (rotr_wf_iff.mpr hn) s, fun k hk => ?bits,
    rotr_eq_rotl _ n.isLt.le, rotlFn_rotrFn hn _, rotrFn_rotlFn hn _⟩, fun u n h => ?fields⟩
  case bits => exact rotr_getLsbD _ n.isLt hk
  case fields =>
    obtain ⟨hmop, hamt, -⟩ := fields_of_decodeMicro h rfl
    exact ⟨hmop, hamt, rotr_wf_iff.mp (decodeMicro_sound h).1⟩

/-! ## Groups of bits exchanged (R107) -/

theorem swapgOk_iff {m : Word} {s : BitVec 5} :
    swapgOk m s = true ↔ s ≠ 0 ∧ m ≠ 0 ∧ m >>> (32 - s.toNat) = 0 ∧ m &&& (m <<< s.toNat) = 0 := by
  simp only [swapgOk, Bool.and_eq_true, bne_iff_ne, beq_iff_eq, and_assoc]

/-- A bit the mask selects has another bit `s` above it. -/
theorem add_lt_of_swapgOk {m : Word} {s : BitVec 5} (h : swapgOk m s = true) {k : Nat} (hm : m.getLsbD k = true) :
    k + s.toNat < 32 := by
  obtain ⟨-, -, hfit, -⟩ := swapgOk_iff.mp h
  have hk : k < 32 := BitVec.lt_of_getLsbD hm
  by_contra hout
  have hbit : (m >>> (32 - s.toNat)).getLsbD (k - (32 - s.toNat)) = true := by
    rwa [BitVec.getLsbD_ushiftRight, Nat.add_sub_cancel' (by omega)]
  simp [hfit] at hbit

/-- No bit belongs to both groups. -/
theorem high_of_swapgOk {m : Word} {s : BitVec 5} (h : swapgOk m s = true) {k : Nat} (hm : m.getLsbD k = true) :
    (m <<< s.toNat).getLsbD k = false := by
  obtain ⟨-, -, -, hdisjoint⟩ := swapgOk_iff.mp h
  have hbit : (m &&& (m <<< s.toNat)).getLsbD k = false := by simp [hdisjoint]
  rwa [BitVec.getLsbD_and, hm, Bool.true_and] at hbit

/-- Every bit of `SWAPG m, s`: from `s` above for the low group, from `s` below for the high group, the same for the others. -/
theorem swapgFn_getLsbD {m : Word} {s : BitVec 5} (h : swapgOk m s = true) (x : Word) {k : Nat} (hk : k < 32) :
    (swapgFn m s x).getLsbD k =
      if m.getLsbD k then (x >>> s.toNat).getLsbD k
      else if (m <<< s.toNat).getLsbD k then (x <<< s.toNat).getLsbD k else x.getLsbD k := by
  have hhigh := high_of_swapgOk h (k := k)
  simp only [swapgFn, BitVec.shiftLeft_and_distrib, BitVec.getLsbD_or, BitVec.getLsbD_and, BitVec.getLsbD_not, hk, decide_true,
    Bool.true_and]
  cases hm : m.getLsbD k with
  | true => simp [hhigh hm]
  | false => cases (m <<< s.toNat).getLsbD k <;> simp

section
variable {m : Word} {s : BitVec 5} (h : swapgOk m s = true) (x : Word) {k : Nat}
include h

theorem swapgFn_getLsbD_low (hm : m.getLsbD k = true) : (swapgFn m s x).getLsbD k = x.getLsbD (k + s.toNat) := by
  rw [swapgFn_getLsbD h x (BitVec.lt_of_getLsbD hm), if_pos hm, BitVec.getLsbD_ushiftRight, Nat.add_comm]

theorem swapgFn_getLsbD_high (hm : m.getLsbD k = true) : (swapgFn m s x).getLsbD (k + s.toNat) = x.getLsbD k := by
  have hk := add_lt_of_swapgOk h hm
  have hs : (m <<< s.toNat).getLsbD (k + s.toNat) = true := by simp [hk, hm]
  have hlow : m.getLsbD (k + s.toNat) ≠ true := fun hl => by simp [high_of_swapgOk h hl] at hs
  rw [swapgFn_getLsbD h x hk, if_neg hlow, if_pos hs]
  simp [hk, BitVec.getLsbD_eq_getElem (Nat.lt_of_add_right_lt hk)]

theorem swapgFn_getLsbD_other (hm : m.getLsbD k = false) (hs : (m <<< s.toNat).getLsbD k = false) :
    (swapgFn m s x).getLsbD k = x.getLsbD k := by
  obtain hk | hk := Nat.lt_or_ge k 32
  · rw [swapgFn_getLsbD h x hk, hm, hs, if_neg Bool.false_ne_true, if_neg Bool.false_ne_true]
  · rw [BitVec.getLsbD_of_ge _ k hk, BitVec.getLsbD_of_ge _ k hk]

/-- The exchange twice: a bit of either group goes over and comes back. -/
theorem swapgFn_swapgFn : swapgFn m s (swapgFn m s x) = x := by
  refine BitVec.eq_of_getLsbD_eq fun k hk => ?_
  cases hm : m.getLsbD k with
  | true => rw [swapgFn_getLsbD_low h _ hm, swapgFn_getLsbD_high h x hm]
  | false =>
    cases hs : (m <<< s.toNat).getLsbD k with
    | false => rw [swapgFn_getLsbD_other h _ hm hs, swapgFn_getLsbD_other h x hm hs]
    | true =>
      obtain ⟨j, rfl, hj⟩ : ∃ j, k = j + s.toNat ∧ m.getLsbD j = true := by
        simp only [BitVec.getLsbD_shiftLeft, Bool.and_eq_true, Bool.not_eq_true', decide_eq_false_iff_not] at hs
        obtain ⟨⟨-, hge⟩, hbit⟩ := hs
        exact ⟨k - s.toNat, by omega, hbit⟩
      rw [swapgFn_getLsbD_high h _ hj, swapgFn_getLsbD_low h x hj]

end

/-- Settles O13, group by group. -/
theorem swapgExchangesSelectedBits : Obligations.SwapgExchangesSelectedBits := by
  unfold Obligations.SwapgExchangesSelectedBits
  refine ⟨fun u m sh h => ?fields, fun m sh s h0 hm hfit hdisjoint => ?effect⟩
  case fields =>
    obtain ⟨hmop, hamt, himm⟩ := fields_of_decodeMicro h rfl
    exact ⟨hmop, himm, hamt, swapgOk_iff.mp (decodeMicro_sound h).1⟩
  case effect =>
    have hok : swapgOk m sh = true := swapgOk_iff.mpr ⟨h0, hm, hfit, hdisjoint⟩
    exact ⟨swapgFn m sh s.mixer.mx, exec_micro_next (i := .swapg m sh) rfl hok s,
      fun k hk => ⟨add_lt_of_swapgOk hok hk, swapgFn_getLsbD_high hok _ hk, swapgFn_getLsbD_low hok _ hk⟩,
      fun k => swapgFn_getLsbD_other hok _, swapgFn_swapgFn hok _⟩

/-! ## Halves and bytes exchanged (R105, R106) -/

theorem swaphFn_eq_rotlFn (x : Word) : swaphFn x = rotlFn 16 x := rfl

theorem swaphFn_eq_rotrFn (x : Word) : swaphFn x = rotrFn 16 x := rotl_eq_rotr x (by decide)

theorem swaphFn_getLsbD (x : Word) {k : Nat} (hk : k < 32) : (swaphFn x).getLsbD k = x.getLsbD ((k + 16) % 32) := by
  rw [swaphFn_eq_rotrFn]
  exact rotr_getLsbD x (by decide) hk

theorem swaphFn_swaphFn (x : Word) : swaphFn (swaphFn x) = x := by
  rw [swaphFn_eq_rotlFn, swaphFn_eq_rotrFn, rotlFn_rotrFn (by decide)]

theorem lowHalfMask_getLsbD : ∀ k < 32, (0x0000FFFF : Word).getLsbD k = decide (k < 16) := by decide

theorem swapgFn_lowHalfMask (x : Word) : swapgFn 0x0000FFFF 16 x = swaphFn x := by
  have hok : swapgOk 0x0000FFFF 16 = true := by decide
  refine BitVec.eq_of_getLsbD_eq fun k hk => ?_
  rw [swaphFn_getLsbD x hk]
  obtain hlow | hhigh := Nat.lt_or_ge k 16
  · have hm := (lowHalfMask_getLsbD k hk).trans (decide_eq_true hlow)
    rw [swapgFn_getLsbD_low hok x hm, Nat.mod_eq_of_lt (by omega)]
    rfl
  · obtain ⟨j, rfl⟩ := Nat.exists_eq_add_of_le' hhigh
    have hm := (lowHalfMask_getLsbD j (by omega)).trans (decide_eq_true (by omega))
    refine (swapgFn_getLsbD_high hok x hm).trans ?_
    congr 1
    omega

/-- Settles O11: `SWAPH` is the rotate by half a word. -/
theorem swaphExchangesHalves : Obligations.SwaphExchangesHalves := by
  unfold Obligations.SwaphExchangesHalves
  refine ⟨by decide, by decide, fun s => ⟨swaphFn s.mixer.mx, exec_micro_next rfl rfl s, ?upper, ?lower, swaphFn_swaphFn _,
    swaphFn_eq_rotlFn _, swaphFn_eq_rotrFn _, (swapgFn_lowHalfMask _).symm⟩⟩
  case upper | lower =>
    refine BitVec.eq_of_getLsbD_eq fun k hk => ?_
    rw [BitVec.getLsbD_extractLsb', BitVec.getLsbD_extractLsb', swaphFn_getLsbD _ (by omega)]
    congr 2
    omega

/-- Byte `k / 8` comes from the byte as far from the other end. -/
theorem bswapFn_getLsbD (x : Word) {k : Nat} (hk : k < 32) : (bswapFn x).getLsbD k = x.getLsbD (24 - 8 * (k / 8) + k % 8) := by
  interval_cases k <;> simp [bswapFn]

theorem bswapFn_bswapFn (x : Word) : bswapFn (bswapFn x) = x := by
  refine BitVec.eq_of_getLsbD_eq fun k hk => ?_
  rw [bswapFn_getLsbD _ hk, bswapFn_getLsbD x (by omega)]
  congr 1
  omega

theorem evenByteMask_getLsbD : ∀ k < 32, (0x00FF00FF : Word).getLsbD k = decide (k % 16 < 8) := by decide

/-- Exchanging the bytes of each half and then the halves reverses the bytes. -/
theorem swaphFn_swapgFn_evenByteMask (x : Word) : swaphFn (swapgFn 0x00FF00FF 8 x) = bswapFn x := by
  have hok : swapgOk 0x00FF00FF 8 = true := by decide
  refine BitVec.eq_of_getLsbD_eq fun k hk => ?_
  rw [swaphFn_getLsbD _ hk, bswapFn_getLsbD x hk]
  obtain hlow | hhigh := Nat.lt_or_ge ((k + 16) % 32 % 16) 8
  · have hm := (evenByteMask_getLsbD ((k + 16) % 32) (by omega)).trans (decide_eq_true hlow)
    refine (swapgFn_getLsbD_low hok x hm).trans ?_
    congr 1
    change (k + 16) % 32 + 8 = _
    omega
  · obtain ⟨j, hj⟩ := Nat.exists_eq_add_of_le' (show 8 ≤ (k + 16) % 32 by omega)
    have hm := (evenByteMask_getLsbD j (by omega)).trans (decide_eq_true (by omega))
    rw [hj]
    refine (swapgFn_getLsbD_high hok x hm).trans ?_
    congr 1
    omega

/-- Settles O12, byte by byte. -/
theorem bswapReversesBytes : Obligations.BswapReversesBytes := by
  unfold Obligations.BswapReversesBytes
  refine ⟨by decide, by decide, fun s => ⟨bswapFn s.mixer.mx, exec_micro_next rfl rfl s, ?byte3, ?byte2, ?byte1, ?byte0,
    bswapFn_bswapFn _, (swaphFn_swapgFn_evenByteMask _).symm⟩⟩
  case byte3 | byte2 | byte1 | byte0 =>
    refine BitVec.eq_of_getLsbD_eq fun k hk => ?_
    rw [BitVec.getLsbD_extractLsb', BitVec.getLsbD_extractLsb', bswapFn_getLsbD _ (by omega)]
    congr 2
    omega

/-! ## Constants (R108, R109) -/

theorem xorcFn_xorcFn (c x : Word) : xorcFn c (xorcFn c x) = x := by
  rw [xorcFn, xorcFn, BitVec.xor_assoc, BitVec.xor_self, BitVec.xor_zero]

/-- Settles O14, by `xorcFn_xorcFn`. -/
theorem xorcIsInvolution : Obligations.XorcIsInvolution := by
  unfold Obligations.XorcIsInvolution
  refine ⟨fun u c h => ?fields, fun c s => ⟨exec_micro_next rfl rfl s, xorcFn_xorcFn c _, BitVec.xor_zero⟩⟩
  case fields =>
    obtain ⟨hmop, -, himm⟩ := fields_of_decodeMicro h rfl
    exact ⟨hmop, himm⟩

theorem getLsbD_zero_iff_odd (c : Word) : c.getLsbD 0 = true ↔ Odd c.toNat := by
  rw [BitVec.getLsbD, Nat.testBit_zero, decide_eq_true_iff, Nat.odd_iff]

/-- An odd word is a unit modulo 2^32. -/
theorem exists_odd_inverse {c : Word} (hc : c.getLsbD 0 = true) : ∃ d : Word, d.getLsbD 0 = true ∧ c * d = 1 := by
  rw [getLsbD_zero_iff_odd] at hc
  obtain ⟨n, hlt, hn⟩ := Nat.exists_mul_mod_eq_one_of_coprime (hc.coprime_two_right.pow_right 32) (by decide)
  have hinv : c * BitVec.ofNat 32 n = 1 := BitVec.eq_of_toNat_eq (by simpa using hn)
  have hodd : Odd (c.toNat * n) := Nat.odd_iff.mpr (by omega)
  refine ⟨BitVec.ofNat 32 n, ?_, hinv⟩
  rw [getLsbD_zero_iff_odd, BitVec.toNat_ofNat, Nat.mod_eq_of_lt hlt]
  exact (Nat.odd_mul.mp hodd).2

theorem mulcFn_mulcFn_of_mul_eq_one {c d : Word} (h : c * d = 1) (x : Word) : mulcFn d (mulcFn c x) = x := by
  rw [mulcFn, mulcFn, BitVec.mul_assoc, h]
  exact BitVec.mul_one x

/-- `MULC` by an odd constant is undone by `MULC` by another one. -/
theorem exists_mulcFn_inverse {c : Word} (hc : c.getLsbD 0 = true) :
    ∃ d : Word, d.getLsbD 0 = true ∧ ∀ x : Word, mulcFn d (mulcFn c x) = x ∧ mulcFn c (mulcFn d x) = x := by
  obtain ⟨d, hd, hinv⟩ := exists_odd_inverse hc
  have hinv' : d * c = 1 := (BitVec.mul_comm d c).trans hinv
  exact ⟨d, hd, fun x => ⟨mulcFn_mulcFn_of_mul_eq_one hinv x, mulcFn_mulcFn_of_mul_eq_one hinv' x⟩⟩

/-- Settles O15, by `exists_mulcFn_inverse`. -/
theorem mulcIsInvertible : Obligations.MulcIsInvertible := by
  unfold Obligations.MulcIsInvertible
  refine ⟨fun c s hc => ⟨⟨mulcFn c s.mixer.mx, exec_micro_next (i := .mulc c) rfl hc s, BitVec.toNat_mul _ _⟩,
    exists_mulcFn_inverse hc⟩, fun u c h => ?fields⟩
  case fields =>
    obtain ⟨hmop, -, himm⟩ := fields_of_decodeMicro h rfl
    exact ⟨hmop, himm, (decodeMicro_sound h).1⟩

/-! ## Bijections (R113) -/

/-- Each micro-op is undone on either side by itself or by one of its kind. -/
theorem microOp_bijective {i : Instr} (hwf : i.wf = true) (hc : i.isCommand = false) : Function.Bijective (microOp i) := by
  cases i with
  | derive | verifyA | verifyB | emitA | emitB | digest => cases hc
  | mnop => exact Function.bijective_id
  | rotl n =>
    have hn := rotl_wf_iff.mp hwf
    exact Function.bijective_iff_has_inverse.mpr ⟨rotrFn n, rotrFn_rotlFn hn, rotlFn_rotrFn hn⟩
  | rotr n =>
    have hn := rotr_wf_iff.mp hwf
    exact Function.bijective_iff_has_inverse.mpr ⟨rotlFn n, rotlFn_rotrFn hn, rotrFn_rotlFn hn⟩
  | swaph => exact Function.Involutive.bijective swaphFn_swaphFn
  | bswap => exact Function.Involutive.bijective bswapFn_bswapFn
  | swapg m s => exact Function.Involutive.bijective (swapgFn_swapgFn hwf)
  | xorc c => exact Function.Involutive.bijective (xorcFn_xorcFn c)
  | mulc c =>
    obtain ⟨d, -, hinv⟩ := exists_mulcFn_inverse hwf
    exact Function.bijective_iff_has_inverse.mpr ⟨mulcFn d, fun x => (hinv x).1, fun x => (hinv x).2⟩

end Sys2Proof.Machine
end

section
/-! SUPPORT. Stages (R110 to R113): a well-formed stage is the composition of the three micro-ops it spells. The Variant B stage (R112). -/

namespace Sys2Proof.Machine

/-! ## What a stage spells (R80) -/

/-- Settles O8: `MNOP` writes `MX` back, its word is 0, and a stage with it in slot 0 or 1 is ill formed. -/
theorem mnopIsIdentity : Obligations.MnopIsIdentity := by
  unfold Obligations.MnopIsIdentity
  refine ⟨fun s => exec_micro_next rfl rfl s, by decide, by decide, fun u v => ⟨?slot0, ?slot1⟩⟩
  case slot0 => exact (stageRom_ok_eq_false_iff ⟨0, u, v⟩).mpr (by simp)
  case slot1 => exact (stageRom_ok_eq_false_iff ⟨u, 0, v⟩).mpr (by simp)

theorem isPrimitive_iff (u : MicroWord) : isPrimitive u = true ↔ ∃ i, decodeMicro u = some i ∧ i ≠ .mnop := by
  unfold isPrimitive
  split <;> simp_all

theorem stageRom_ok_iff (w0 w1 w2 : MicroWord) :
    StageRom.ok ⟨w0, w1, w2⟩ = true ↔ isPrimitive w0 = true ∧ isPrimitive w1 = true ∧ ∃ i, decodeMicro w2 = some i := by
  simp only [StageRom.ok, Bool.and_eq_true, Option.isSome_iff_exists, and_assoc]

/-- A stage whose words spell three micro-ops applies them in slot order (R110). -/
theorem stageEval_of_decode {w0 w1 w2 : MicroWord} {p0 p1 p2 : Instr} (h0 : decodeMicro w0 = some p0)
    (h1 : decodeMicro w1 = some p1) (h2 : decodeMicro w2 = some p2) (x : Word) :
    stageEval ⟨w0, w1, w2⟩ x = microOp p2 (microOp p1 (microOp p0 x)) := by
  rw [stageEval_eq, microWordFn_eq h0, microWordFn_eq h1, microWordFn_eq h2]

/-! ## The ROM form of a list (R80, R110) -/

theorem stageElementOk_iff (i : Instr) : stageElementOk i = true ↔ i.isCommand = false ∧ i ≠ .mnop ∧ i.wf = true := by
  simp only [stageElementOk, Bool.and_eq_true, Bool.not_eq_true', bne_iff_ne, and_assoc]

/-- The word a list element gets spells it. -/
theorem decodeMicro_of_stageElementOk {i : Instr} (h : stageElementOk i = true) : decodeMicro (encodeMicro i) = some i := by
  obtain ⟨hc, -, hwf⟩ := (stageElementOk_iff i).mp h
  refine decodeMicro_eq_some_iff.mpr ⟨?_, hwf⟩
  cases i with
  | derive | verifyA | verifyB | emitA | emitB | digest => cases hc
  | _ => rfl

theorem isPrimitive_of_stageElementOk {i : Instr} (h : stageElementOk i = true) : isPrimitive (encodeMicro i) = true :=
  (isPrimitive_iff _).mpr ⟨i, decodeMicro_of_stageElementOk h, ((stageElementOk_iff i).mp h).2.1⟩

/-- Only a list of primitives has a ROM form. -/
theorem stageElementOk_of_ofList {l : List Instr} {r : StageRom} (h : StageRom.ofList l = some r) :
    ∀ i ∈ l, stageElementOk i = true := by
  unfold StageRom.ofList at h
  split at h
  · next hall => exact List.all_eq_true.mp hall
  · cases h

theorem stageRom_ofList_two {p0 p1 : Instr} {r : StageRom} (h : StageRom.ofList [p0, p1] = some r) :
    stageElementOk p0 = true ∧ stageElementOk p1 = true ∧ r = ⟨encodeMicro p0, encodeMicro p1, 0⟩ := by
  have hmnop : encodeMicro .mnop = 0 := by decide
  have hok := stageElementOk_of_ofList h
  rw [StageRom.ofList, if_pos (List.all_eq_true.mpr hok)] at h
  exact ⟨hok p0 (by simp), hok p1 (by simp), hmnop ▸ (Option.some.inj h).symm⟩

theorem stageRom_ofList_three {p0 p1 p2 : Instr} {r : StageRom} (h : StageRom.ofList [p0, p1, p2] = some r) :
    stageElementOk p0 = true ∧ stageElementOk p1 = true ∧ stageElementOk p2 = true ∧
      r = ⟨encodeMicro p0, encodeMicro p1, encodeMicro p2⟩ := by
  have hok := stageElementOk_of_ofList h
  rw [StageRom.ofList, if_pos (List.all_eq_true.mpr hok)] at h
  exact ⟨hok p0 (by simp), hok p1 (by simp), hok p2 (by simp), (Option.some.inj h).symm⟩

/-- Two primitives in slots 0 and 1 and any micro-op in slot 2 make a well-formed stage, which applies them in this order. -/
theorem stage_of_primitives {p0 p1 p2 : Instr} {w2 : MicroWord} (h0 : stageElementOk p0 = true) (h1 : stageElementOk p1 = true)
    (h2 : decodeMicro w2 = some p2) (x : Word) :
    StageRom.ok ⟨encodeMicro p0, encodeMicro p1, w2⟩ = true ∧
      stageEval ⟨encodeMicro p0, encodeMicro p1, w2⟩ x = microOp p2 (microOp p1 (microOp p0 x)) :=
  ⟨(stageRom_ok_iff _ _ _).mpr ⟨isPrimitive_of_stageElementOk h0, isPrimitive_of_stageElementOk h1, p2, h2⟩,
    stageEval_of_decode (decodeMicro_of_stageElementOk h0) (decodeMicro_of_stageElementOk h1) h2 x⟩

/-- Settles O7: the words of a ROM form decode to the list's primitives, the free slot 2 to `MNOP`. -/
theorem stageAppliesListInOrder : Obligations.StageAppliesListInOrder := by
  unfold Obligations.StageAppliesListInOrder
  refine fun p0 p1 p2 r x => ⟨fun h => ?two, fun h => ?three⟩
  case two =>
    obtain ⟨h0, h1, rfl⟩ := stageRom_ofList_two h
    have h2 : decodeMicro 0 = some .mnop := by decide
    obtain ⟨hok, heval⟩ := stage_of_primitives h0 h1 h2 x
    exact ⟨hok, rfl, heval⟩
  case three =>
    obtain ⟨h0, h1, h2, rfl⟩ := stageRom_ofList_three h
    obtain ⟨hok, heval⟩ := stage_of_primitives h0 h1 (decodeMicro_of_stageElementOk h2) x
    exact ⟨hok, rfl, heval⟩

/-! ## Stages and the pipeline as bijections (R113) -/

theorem stageEval_bijective {r : StageRom} (h : r.ok = true) : Function.Bijective (stageEval r) := by
  obtain ⟨w0, w1, w2⟩ := r
  obtain ⟨hp0, hp1, p2, h2⟩ := (stageRom_ok_iff w0 w1 w2).mp h
  obtain ⟨p0, h0, -⟩ := (isPrimitive_iff w0).mp hp0
  obtain ⟨p1, h1, -⟩ := (isPrimitive_iff w1).mp hp1
  have hop {u : MicroWord} {i : Instr} (hd : decodeMicro u = some i) : Function.Bijective (microOp i) :=
    microOp_bijective (decodeMicro_sound hd).1 (decodeMicro_sound hd).2
  have heval : stageEval ⟨w0, w1, w2⟩ = microOp p2 ∘ microOp p1 ∘ microOp p0 := funext (stageEval_of_decode h0 h1 h2)
  exact heval ▸ (hop h2).comp ((hop h1).comp (hop h0))

theorem cfg_stages_ok (c : Cfg) : c.rom1.ok = true ∧ c.rom2.ok = true ∧ c.rom3.ok = true := by
  obtain ⟨⟨⟨⟨h1, h2⟩, h3⟩, -⟩, -⟩ : (((c.rom1.ok = true ∧ c.rom2.ok = true) ∧ c.rom3.ok = true) ∧ _) ∧ _ := by
    simpa only [CfgData.ok, Bool.and_eq_true] using c.ok
  exact ⟨h1, h2, h3⟩

/-- Settles O16: every micro-op has an inverse, and stages and pipeline are compositions. -/
theorem stagesAreBijections : Obligations.StagesAreBijections := by
  unfold Obligations.StagesAreBijections
  refine ⟨fun i => microOp_bijective, fun c => ?_⟩
  obtain ⟨h1, h2, h3⟩ := cfg_stages_ok c
  have hs1 : Function.Bijective (stage1 c) := stageEval_bijective h1
  have hs2 : Function.Bijective (stage2 c) := stageEval_bijective h2
  have hs3 : Function.Bijective (stage3 c) := stageEval_bijective h3
  exact ⟨hs1, hs2, hs3, hs3.comp (hs2.comp hs1)⟩

/-! ## The Variant B stage (R112) -/

section
variable {c : Cfg} {b : Byte} {i : Nat} {u : Word} (hu : u = (b.setWidth 32 * c.mulb + c.addb) ^^^ BitVec.ofNat 32 (3 * i + 5))
include hu

/-- Every bit of the last line of `BSTAGE`: the shifts are shifts of the whole word (C4). -/
theorem bstage_getLsbD {k : Nat} (hk : k < 8) :
    (bstage c b i).getLsbD k = ((u <<< 1).getLsbD k || u.getLsbD (k + 7)) := by
  have hlast : bstage c b i = ((u <<< 1) ||| (u >>> 7)).setWidth 8 := by rw [hu]; rfl
  rw [hlast, BitVec.getLsbD_setWidth, decide_eq_true hk, Bool.true_and, BitVec.getLsbD_or, BitVec.getLsbD_ushiftRight,
    Nat.add_comm 7]

theorem bstage_getLsbD_zero : (bstage c b i).getLsbD 0 = u.getLsbD 7 := by
  rw [bstage_getLsbD hu (by decide), BitVec.getLsbD_shiftLeft]
  rfl

theorem bstage_getLsbD_succ {k : Nat} (hk : k < 7) : (bstage c b i).getLsbD (k + 1) = (u.getLsbD k || u.getLsbD (k + 8)) := by
  have hin : k + 1 < 32 := by omega
  rw [bstage_getLsbD hu (by omega), BitVec.getLsbD_shiftLeft]
  simp [hin]

/-- Where bits 14:8 of `u` are 0 nothing is mixed into the rotated low byte. -/
theorem bstage_eq_rotateLeft (hzero : u.extractLsb' 8 7 = 0) : bstage c b i = (u.setWidth 8).rotateLeft 1 := by
  refine BitVec.eq_of_getLsbD_eq fun k hk => ?_
  cases k with
  | zero =>
    rw [bstage_getLsbD_zero hu, BitVec.getLsbD_rotateLeft]
    simp
  | succ k =>
    have hbit : u.getLsbD (k + 8) = false := by
      have hmix : (u.extractLsb' 8 7).getLsbD k = false := by simp [hzero]
      rwa [BitVec.getLsbD_extractLsb', decide_eq_true (by omega), Bool.true_and, Nat.add_comm] at hmix
    rw [bstage_getLsbD_succ hu (by omega), hbit, Bool.or_false, BitVec.getLsbD_rotateLeft]
    simp [hk, show k < 8 by omega]

end

/-- Settles O17, bit by bit. -/
theorem bstageBitEquations : Obligations.BstageBitEquations := by
  unfold Obligations.BstageBitEquations
  refine fun c b i u hu => ⟨bstage_getLsbD_zero hu, fun k h1 hk => ?bits, bstage_eq_rotateLeft hu⟩
  case bits =>
    obtain ⟨j, rfl⟩ := Nat.exists_eq_add_of_le' h1
    exact bstage_getLsbD_succ hu (by omega)

end Sys2Proof.Machine
end

section
/-! SUPPORT. KeyDeriver and Policy XOR-Equality (R130 to R135): what `DERIVE` and `VERIFY.A` do, who writes the ReferenceSet, and the one
accepted word. -/

namespace Sys2Proof.Machine

/-! ## The ReferenceSet (R130 to R132) -/

/-- Settles O18: a stage evaluation leaves the same mixer whatever it held, so a second `DERIVE` answers the same state. -/
theorem deriveWritesReferenceSet : Obligations.DeriveWritesReferenceSet := by
  unfold Obligations.DeriveWritesReferenceSet
  refine ⟨by decide, fun s => ⟨Mixer.stage s.cfg.rom3 (refC1 s.cfg) s.mixer, _, rfl, rfl, rfl, fun he => ?ignored⟩⟩
  case ignored => rw [hostWrite, if_pos he]

/-- An instruction writes the values of R130 into `KEY`, `C1`, `C2`, or it leaves the three as they are. -/
theorem exec_derives_or_keeps_refs {i : Instr} {s t : State} (h : exec i s = .next t) :
    (t.key = refKey s.cfg ∧ t.c1 = refC1 s.cfg ∧ t.c2 = refC2 s.cfg) ∨ (t.key = s.key ∧ t.c1 = s.c1 ∧ t.c2 = s.c2) := by
  by_cases hi : i = .derive
  · subst hi
    cases h
    exact .inl ⟨rfl, rfl, rfl⟩
  · obtain ⟨hkey, hc1, hc2, -⟩ := (outputsHaveTheirWriters i s t h).1 hi
    exact .inr ⟨hkey, hc1, hc2⟩

/-- So does every step but Reset: the host cannot write the three registers (R28). -/
theorem step_derives_or_keeps_refs {s t : State} (h : step s = .next t) (hr : ¬ ResetIsNext s) :
    (t.key = refKey s.cfg ∧ t.c1 = refC1 s.cfg ∧ t.c2 = refC2 s.cfg) ∨ (t.key = s.key ∧ t.c1 = s.c1 ∧ t.c2 = s.c2) := by
  obtain ⟨u, i, -, -, rfl⟩ | ⟨-, -, rfl⟩ | ⟨rest, hn, -⟩ | ⟨offset, w, rest, -, rfl⟩ | ⟨offset, d, rest, -, hw⟩ := step_cases h
  · exact .inr ⟨rfl, rfl, rfl⟩
  · exact .inr ⟨rfl, rfl, rfl⟩
  · exact absurd ⟨rest, hn⟩ hr
  · obtain ⟨v, n, hread⟩ := hostRead_eq offset w { s with host := rest }
    rw [hread]
    exact .inr ⟨rfl, rfl, rfl⟩
  · obtain ⟨-, rfl⟩ | ⟨-, ⟨c, -, rfl⟩ | ⟨v, rfl⟩ | ⟨v, -, rfl⟩ | ⟨i, b, -, rfl⟩ | ⟨w, i, -, -, -, hi⟩⟩ := hostWrite_cases hw
    case inr.inr.inr.inr.inr =>
      have hrefs := exec_derives_or_keeps_refs hi
      exact hrefs
    all_goals exact .inr ⟨rfl, rfl, rfl⟩

theorem refv_of_reset {s t : State} (h : step s = .next t) (hr : ResetIsNext s) : t.status.refv = false := by
  obtain ⟨rest, hn⟩ := hr
  rw [step_of_nextEvent hn] at h
  cases h
  rfl

/-- Settles O19: in a state that meets R33.6 a `DERIVE` rewrites the values that are there. -/
theorem referenceSetIsWriteOnce : Obligations.ReferenceSetIsWriteOnce := by
  unfold Obligations.ReferenceSetIsWriteOnce
  refine fun s t hrefs h => ⟨fun hv hr => ?kept, fun hv ht => ?set, refv_of_reset h⟩
  case kept =>
    obtain ⟨hsticky, -⟩ := flagsChangeByTheirEvents s t h hr
    refine ⟨hsticky hv, ?_⟩
    obtain ⟨hkey', hc1', hc2'⟩ | hsame := step_derives_or_keeps_refs h hr
    · obtain ⟨hkey, hc1, hc2⟩ := hrefs hv
      exact ⟨hkey'.trans hkey.symm, hc1'.trans hc1.symm, hc2'.trans hc2.symm⟩
    · exact hsame
  case set =>
    have hr : ¬ ResetIsNext s := fun hr => absurd ht (by rw [refv_of_reset h hr]; decide)
    obtain ⟨-, -, -, -, hset, -⟩ := flagsChangeByTheirEvents s t h hr
    exact (hset ht).resolve_left (by rw [hv]; decide)

/-! ## Policy XOR-Equality (R133 to R135) -/

/-- Settles O20: the two sides of the gate `REFV`. -/
theorem verifyAWritesVerdict : Obligations.VerifyAWritesVerdict := by
  unfold Obligations.VerifyAWritesVerdict
  exact ⟨by decide, fun s => ⟨fun hv => ⟨_, execVerifyA_of_refv hv⟩, execVerifyA_of_not_refv⟩⟩

/-- The key stands on both sides of the comparison and cancels. -/
theorem verifyA_iff (c : Cfg) (x : Word) : verifyA c x = true ↔ pipeline c x = refC1 c ^^^ stage3 c (refC1 c) := by
  rw [verifyA, beq_iff_eq, refC2, ← BitVec.xor_assoc, BitVec.xor_left_inj]

/-- Settles O21: the pipeline is a bijection, and it takes the seed to `S3(C1)`. -/
theorem exactlyOneCandidateAccepted : Obligations.ExactlyOneCandidateAccepted := by
  unfold Obligations.ExactlyOneCandidateAccepted
  refine ⟨verifyA_iff, fun c c' h1 h2 h3 hseed x => ?keyCancels, fun c => ?unique⟩
  case keyCancels =>
    rw [Bool.eq_iff_iff, verifyA_iff, verifyA_iff]
    simp only [pipeline, refC1, stage1, stage2, stage3, h1, h2, h3, hseed]
  case unique =>
    obtain ⟨-, -, -, hinj, hsurj⟩ := stagesAreBijections.2 c
    obtain ⟨x, hx⟩ := hsurj (refC1 c ^^^ stage3 c (refC1 c))
    have hunique : ∀ y, verifyA c y = true → y = x := fun y hy => hinj (((verifyA_iff c y).mp hy).trans hx.symm)
    have hseed : x = c.seed ↔ stage3 c (refC1 c) = refC1 c ^^^ stage3 c (refC1 c) :=
      calc x = c.seed
        _ ↔ pipeline c c.seed = pipeline c x := eq_comm.trans hinj.eq_iff.symm
        _ ↔ stage3 c (refC1 c) = refC1 c ^^^ stage3 c (refC1 c) := by rw [hx]; rfl
    exact ⟨x, (verifyA_iff c x).mpr hx, hunique, hseed, hseed.trans (eq_comm.trans xor_right_eq_self_iff)⟩

end Sys2Proof.Machine
end

section
/-! SUPPORT. Policy Array-Equality (R136 to R139): the elements it compares, what it reads of the constants, and why it rejects the scenario
string. That a verification can be issued again (R140). -/

namespace Sys2Proof.Machine

/-! ## The comparison (R136 to R138) -/

/-- `XT[k]` is made of byte `k` and its position. -/
theorem transform_getElem (c : Cfg) (i : Nat) (l : List Byte) {k : Nat} (hk : k < l.length) :
    (transform c i l)[k]'((transform_length c i l).symm ▸ hk) = bstage c l[k] (i + k) := by
  induction l generalizing i k with
  | nil => cases hk
  | cons b rest ih =>
    cases k with
    | zero => rfl
    | succ k =>
      have hrest : k < rest.length := Nat.lt_of_succ_lt_succ hk
      simpa only [transform, List.getElem_cons_succ, Nat.add_assoc, Nat.add_comm 1] using ih (i + 1) hrest

theorem verifyB_of_length_ne (c : Cfg) {l : List Byte} (h : l.length ≠ 16) : verifyB c l = false := by
  rw [verifyB, beq_false_of_ne h, Bool.false_and]

theorem verifyB_iff (c : Cfg) {l : List Byte} (h : l.length = 16) :
    verifyB c l = true ↔ ∀ i : Fin 16, bstage c (l[i.val]'(by omega)) i.val = tgtTable[i] := by
  have hlen : (transform c 0 l).length = 16 := (transform_length c 0 l).trans h
  have helem (i : Fin 16) : (transform c 0 l)[i.val]'(by omega) = bstage c (l[i.val]'(by omega)) i.val := by
    rw [transform_getElem c 0 l (by omega), Nat.zero_add]
  have hlists : verifyB c l = true ↔ transform c 0 l = tgtTable.toList := by
    rw [verifyB, beq_iff_eq.mpr h, Bool.true_and, beq_iff_eq]
  rw [hlists, List.ext_getElem_iff]
  exact ⟨fun ⟨_, heq⟩ i => (helem i).symm.trans (heq i.val (by omega) i.isLt),
    fun heq => ⟨hlen, fun k _ hk => (helem ⟨k, hk⟩).trans (heq ⟨k, hk⟩)⟩⟩

/-- Settles O22, by the elements of the transformed array. -/
theorem arrayPolicyComparesElements : Obligations.ArrayPolicyComparesElements := by
  unfold Obligations.ArrayPolicyComparesElements
  exact fun c l => ⟨verifyB_of_length_ne c, verifyB_iff c⟩

theorem State.input_getElem (s : State) {k : Nat} (hk : k < s.input.length) : s.input[k] = s.ibufByte k := by
  have hlt : k < s.ilen.toNat := s.input_length ▸ hk
  exact (s.ibufFrom_get 0 s.ilen.toNat k hlt).trans (by rw [Nat.zero_add])

/-- Settles O23: behind the gate the comparison is Policy Array-Equality of the input bytes. -/
theorem verifyBWritesVerdict : Obligations.VerifyBWritesVerdict := by
  unfold Obligations.VerifyBWritesVerdict
  refine ⟨by decide, fun s => ⟨fun hv hl => ⟨_, _, _, execVerifyB_of_length hv hl, ?verdict⟩,
    execVerifyB_of_other_length, execVerifyB_of_not_refv⟩⟩
  case verdict =>
    have hlen : s.input.length = 16 := by rw [State.input_length, hl]; rfl
    rw [← verifyB_input_of_ilen hl, verifyB_iff s.cfg hlen]
    exact forall_congr' fun i => by rw [State.input_getElem]

/-! ## The residues that matter (R139) -/

/-- The low `n` bits of the word that the last line of `BSTAGE` mixes (R112) are made of the low `n` bits of the constants. -/
theorem bstageWord_setWidth (c : Cfg) (b : Byte) (i : Nat) {n : Nat} (hn : n ≤ 32) :
    ((b.setWidth 32 * c.mulb + c.addb) ^^^ BitVec.ofNat 32 (3 * i + 5)).setWidth n =
      ((b.setWidth 32).setWidth n * c.mulb.setWidth n + c.addb.setWidth n) ^^^ BitVec.ofNat n (3 * i + 5) := by
  rw [BitVec.setWidth_xor, BitVec.setWidth_add _ _ hn, BitVec.setWidth_mul _ _ hn, BitVec.setWidth_ofNat_of_le hn]

theorem getLsbD_eq_of_setWidth_eq {u v : Word} {n k : Nat} (h : u.setWidth n = v.setWidth n) (hk : k < n) :
    u.getLsbD k = v.getLsbD k := by
  simpa [hk] using congrArg (BitVec.getLsbD · k) h

/-- No bit above bit 14 of the mixed word reaches the result. -/
theorem bstage_congr {c c' : Cfg} (hm : c.mulb.setWidth 15 = c'.mulb.setWidth 15) (ha : c.addb.setWidth 15 = c'.addb.setWidth 15)
    (b : Byte) (i : Nat) : bstage c b i = bstage c' b i := by
  have hlow : ((b.setWidth 32 * c.mulb + c.addb) ^^^ BitVec.ofNat 32 (3 * i + 5)).setWidth 15 =
      ((b.setWidth 32 * c'.mulb + c'.addb) ^^^ BitVec.ofNat 32 (3 * i + 5)).setWidth 15 := by
    rw [bstageWord_setWidth c b i (by decide), bstageWord_setWidth c' b i (by decide), hm, ha]
  refine BitVec.eq_of_getLsbD_eq fun k hk => ?_
  cases k with
  | zero => rw [bstage_getLsbD_zero rfl, bstage_getLsbD_zero rfl, getLsbD_eq_of_setWidth_eq hlow (by decide)]
  | succ k =>
    rw [bstage_getLsbD_succ rfl (by omega), bstage_getLsbD_succ rfl (by omega), getLsbD_eq_of_setWidth_eq hlow (by omega),
      getLsbD_eq_of_setWidth_eq hlow (by omega)]

theorem transform_congr {c c' : Cfg} (h : ∀ b i, bstage c b i = bstage c' b i) (i : Nat) (l : List Byte) :
    transform c i l = transform c' i l := by
  induction l generalizing i with
  | nil => rfl
  | cons b rest ih => rw [transform, transform, h, ih]

/-! ## The scenario string (R139)

The low bytes of `b * MULB + ADDB` for the letters `L`, `O` and `P` satisfy a linear relation modulo 256, and the target's elements at
their positions bound each of the three so that the relation cannot hold. -/

/-- The low byte of `b * MULB + ADDB` (R112). -/
def bstageLow (c : Cfg) (b : Byte) : Byte := b * c.mulb.setWidth 8 + c.addb.setWidth 8

/-- Below bit 8 the mixed word is the low byte XOR the position's constant. -/
theorem bstageLow_getLsbD (c : Cfg) (b : Byte) (i : Nat) {k : Nat} (hk : k < 8) :
    (bstageLow c b ^^^ BitVec.ofNat 8 (3 * i + 5)).getLsbD k =
      ((b.setWidth 32 * c.mulb + c.addb) ^^^ BitVec.ofNat 32 (3 * i + 5)).getLsbD k := by
  have hlow := bstageWord_setWidth c b i (n := 8) (by decide)
  rw [BitVec.setWidth_setWidth_of_le _ (by decide), BitVec.setWidth_eq] at hlow
  rw [bstageLow, ← hlow, BitVec.getLsbD_setWidth, decide_eq_true hk, Bool.true_and]

/-- What the result of `BSTAGE` says of the low byte: bit 0 is its bit 7, and a 0 one place higher makes a 0 of any other bit. -/
theorem bstageLow_bits_of_bstage {c : Cfg} {b : Byte} {i : Nat} {y : Byte} (h : bstage c b i = y) :
    (bstageLow c b ^^^ BitVec.ofNat 8 (3 * i + 5)).getLsbD 7 = y.getLsbD 0 ∧
      ∀ k < 7, y.getLsbD (k + 1) = false → (bstageLow c b ^^^ BitVec.ofNat 8 (3 * i + 5)).getLsbD k = false := by
  subst h
  refine ⟨?_, fun k hk hy => ?_⟩
  · rw [bstageLow_getLsbD c b i (by decide), bstage_getLsbD_zero rfl]
  · rw [bstage_getLsbD_succ rfl hk, Bool.or_eq_false_iff] at hy
    rw [bstageLow_getLsbD c b i (by omega), hy.1]

/-- `L`, position 11, target 0x56. -/
theorem bstageLow_L {c : Cfg} (h : bstage c 0x4C 11 = 0x56) : (bstageLow c 0x4C).toNat < 64 := by
  have hbits : ∀ v : Byte, (v ^^^ 38).getLsbD 7 = false → (v ^^^ 38).getLsbD 6 = false → v.toNat < 64 := by decide
  obtain ⟨h7, hlow⟩ := bstageLow_bits_of_bstage h
  exact hbits _ h7 (hlow 6 (by decide) rfl)

/-- `O`, position 14, target 0x0E. -/
theorem bstageLow_O {c : Cfg} (h : bstage c 0x4F 14 = 0x0E) : 40 ≤ (bstageLow c 0x4F).toNat ∧ (bstageLow c 0x4F).toNat < 48 := by
  have hbits : ∀ v : Byte, (v ^^^ 47).getLsbD 7 = false → (v ^^^ 47).getLsbD 6 = false → (v ^^^ 47).getLsbD 5 = false →
      (v ^^^ 47).getLsbD 4 = false → (v ^^^ 47).getLsbD 3 = false → 40 ≤ v.toNat ∧ v.toNat < 48 := by decide
  obtain ⟨h7, hlow⟩ := bstageLow_bits_of_bstage h
  exact hbits _ h7 (hlow 6 (by decide) rfl) (hlow 5 (by decide) rfl) (hlow 4 (by decide) rfl) (hlow 3 (by decide) rfl)

/-- `P`, position 15, target 0x8D. -/
theorem bstageLow_P {c : Cfg} (h : bstage c 0x50 15 = 0x8D) :
    (176 ≤ (bstageLow c 0x50).toNat ∧ (bstageLow c 0x50).toNat < 184) ∨
      (240 ≤ (bstageLow c 0x50).toNat ∧ (bstageLow c 0x50).toNat < 248) := by
  have hbits : ∀ v : Byte, (v ^^^ 50).getLsbD 7 = true → (v ^^^ 50).getLsbD 5 = false → (v ^^^ 50).getLsbD 4 = false →
      (v ^^^ 50).getLsbD 3 = false → (176 ≤ v.toNat ∧ v.toNat < 184) ∨ (240 ≤ v.toNat ∧ v.toNat < 248) := by decide
  obtain ⟨h7, hlow⟩ := bstageLow_bits_of_bstage h
  exact hbits _ h7 (hlow 5 (by decide) rfl) (hlow 4 (by decide) rfl) (hlow 3 (by decide) rfl)

/-- `L + 3 P = 4 O` and `1 + 3 = 4`, so the relation holds whatever the constants are. -/
theorem bstageLow_relation (c : Cfg) :
    ((bstageLow c 0x4C).toNat + 3 * (bstageLow c 0x50).toNat) % 256 = 4 * (bstageLow c 0x4F).toNat % 256 := by
  have hbyte : bstageLow c 0x4C + 3 * bstageLow c 0x50 = 4 * bstageLow c 0x4F := by
    simp only [bstageLow]
    ring
  simpa using congrArg BitVec.toNat hbyte

/-- The three letters never meet their targets together. -/
theorem bstage_scenario_ne (c : Cfg) (hL : bstage c 0x4C 11 = 0x56) (hO : bstage c 0x4F 14 = 0x0E) : bstage c 0x50 15 ≠ 0x8D := by
  intro hP
  replace hL := bstageLow_L hL
  replace hO := bstageLow_O hO
  replace hP := bstageLow_P hP
  have hrel := bstageLow_relation c
  rw [Nat.mod_eq_of_lt (by omega : 4 * (bstageLow c 0x4F).toNat < 256)] at hrel
  generalize hn : (bstageLow c 0x4C).toNat + 3 * (bstageLow c 0x50).toNat = n at hrel
  have hleft : (528 ≤ n ∧ n ≤ 612) ∨ (720 ≤ n ∧ n ≤ 804) := by omega
  have hright : 160 ≤ n % 256 ∧ n % 256 ≤ 188 := by omega
  clear hn hrel
  omega

/-- Settles O24: by the residues `BSTAGE` reads, and by three letters of the string. -/
theorem scenarioStringRejected : Obligations.ScenarioStringRejected := by
  unfold Obligations.ScenarioStringRejected
  refine ⟨fun c c' l hm ha => ?residues, fun c => Bool.eq_false_iff.mpr fun h => ?scenario⟩
  case residues => rw [verifyB, verifyB, transform_congr (bstage_congr hm ha)]
  case scenario =>
    have helem := (verifyB_iff c rfl).mp h
    exact bstage_scenario_ne c (helem 11) (helem 14) (helem 15)

/-! ## A verification issued again (R140) -/

/-- What `VERIFY.A` reads it leaves as it is. -/
theorem execVerifyA_again {s t : State} (h : execVerifyA s = .next t) : ∃ u, execVerifyA t = .next u ∧ u.status = t.status := by
  cases hv : s.status.refv with
  | false =>
    rw [execVerifyA_of_not_refv hv] at h
    cases h
    exact ⟨_, execVerifyA_of_not_refv hv, rfl⟩
  | true =>
    rw [execVerifyA_of_refv hv] at h
    cases h
    exact ⟨_, execVerifyA_of_refv hv, rfl⟩

/-- What `VERIFY.B` reads it leaves as it is. -/
theorem execVerifyB_again {s t : State} (h : execVerifyB s = .next t) : ∃ u, execVerifyB t = .next u ∧ u.status = t.status := by
  cases hv : s.status.refv with
  | false =>
    rw [execVerifyB_of_not_refv hv] at h
    cases h
    exact ⟨_, execVerifyB_of_not_refv hv, rfl⟩
  | true =>
    by_cases hl : s.ilen = 16
    · rw [execVerifyB_of_length hv hl] at h
      cases h
      exact ⟨_, execVerifyB_of_length hv hl, rfl⟩
    · rw [execVerifyB_of_other_length hv hl] at h
      cases h
      exact ⟨_, execVerifyB_of_other_length hv hl, rfl⟩

/-- Settles O25, of either policy. -/
theorem verifyIsRepeatable : Obligations.VerifyIsRepeatable := by
  unfold Obligations.VerifyIsRepeatable
  intro i s t hi h
  obtain rfl | rfl := hi
  · exact execVerifyA_again h
  · exact execVerifyB_again h

end Sys2Proof.Machine
end

section
/-! SUPPORT. DigestEngine: the six functions bit by bit, the padding, the schedule, the rounds and blocks one after the other, the text
(R150 to R169). -/

namespace Sys2Proof.Machine

/-! ## The six functions (R154 to R159) -/

theorem ch_getLsbD (x y z : Word) {k : Nat} (hk : k < 32) :
    (ch x y z).getLsbD k = if x.getLsbD k then y.getLsbD k else z.getLsbD k := by
  rw [ch, BitVec.getLsbD_xor, BitVec.getLsbD_and, BitVec.getLsbD_and, BitVec.getLsbD_not, decide_eq_true hk]
  cases x.getLsbD k <;> simp

theorem maj_getLsbD (x y z : Word) (k : Nat) :
    (maj x y z).getLsbD k =
      ((x.getLsbD k && y.getLsbD k) || (x.getLsbD k && z.getLsbD k) || (y.getLsbD k && z.getLsbD k)) := by
  rw [maj, BitVec.getLsbD_xor, BitVec.getLsbD_xor, BitVec.getLsbD_and, BitVec.getLsbD_and, BitVec.getLsbD_and]
  cases x.getLsbD k <;> cases y.getLsbD k <;> simp

theorem shr_getLsbD (x : Word) (n k : Nat) :
    (shr x n).getLsbD k = if k + n < 32 then x.getLsbD (k + n) else false := by
  rw [shr, BitVec.getLsbD_ushiftRight, Nat.add_comm]
  split
  · rfl
  · next hout => exact BitVec.getLsbD_of_ge _ _ (Nat.not_lt.mp hout)

/-- Settles O26, by the bits of rotates and shifts. -/
theorem digestFunctionsBitwise : Obligations.DigestFunctionsBitwise := by
  unfold Obligations.DigestFunctionsBitwise
  intro x y z k hk
  have hrot {n : Nat} (hn : n < 32) : (rotr x n).getLsbD k = x.getLsbD ((k + n) % 32) := rotr_getLsbD x hn hk
  refine ⟨ch_getLsbD x y z hk, maj_getLsbD x y z k, ?ssig0, ?ssig1, ?bsig0, ?bsig1⟩
  case ssig0 => rw [ssig0, BitVec.getLsbD_xor, BitVec.getLsbD_xor, hrot (by decide), hrot (by decide), shr_getLsbD]
  case ssig1 => rw [ssig1, BitVec.getLsbD_xor, BitVec.getLsbD_xor, hrot (by decide), hrot (by decide), shr_getLsbD]
  case bsig0 => rw [bsig0, BitVec.getLsbD_xor, BitVec.getLsbD_xor, hrot (by decide), hrot (by decide), hrot (by decide)]
  case bsig1 => rw [bsig1, BitVec.getLsbD_xor, BitVec.getLsbD_xor, hrot (by decide), hrot (by decide), hrot (by decide)]

/-! ## Padding (R160) -/

theorem mod_eq_56_iff (n z : Nat) : (n + 1 + z) % 64 = 56 ↔ z % 64 = padZeros n := by
  unfold padZeros
  omega

theorem padZeros_lt (n : Nat) : padZeros n < 64 := Nat.mod_lt _ (by decide)

theorem pad_length_eq_blocks (msg : List Byte) : (pad msg).length = 64 * ((msg.length + 8) / 64 + 1) := by
  rw [pad_length, padZeros]
  omega

theorem lengthBytes_getD (l : BitVec 64) {k : Nat} (hk : k < 8) :
    (lengthBytes l).getD k 0 = l.extractLsb' (8 * (7 - k)) 8 := by
  interval_cases k <;> rfl

theorem lengthBytes_getD_toNat (l : BitVec 64) {k : Nat} (hk : k < 8) :
    ((lengthBytes l).getD k 0).toNat = l.toNat / 256 ^ (7 - k) % 256 := by
  rw [lengthBytes_getD l hk, BitVec.extractLsb'_toNat, Nat.shiftRight_eq_div_pow, Nat.pow_mul]

/-- Settles O27: `padZeros` is the least remainder, and the bit length fits in 64 bits. -/
theorem paddingFillsBlocks : Obligations.PaddingFillsBlocks := by
  unfold Obligations.PaddingFillsBlocks
  intro msg hmsg
  refine ⟨padZeros msg.length, lengthBytes (BitVec.ofNat 64 (8 * msg.length)), rfl, ?zeros, fun z' hz' => ?least, rfl,
    fun k hk => ?length, pad_length_eq_blocks msg⟩
  case zeros => exact (mod_eq_56_iff _ _).mpr (Nat.mod_eq_of_lt (padZeros_lt _))
  case least =>
    rw [← (mod_eq_56_iff _ _).mp hz']
    exact Nat.mod_le z' 64
  case length => rw [lengthBytes_getD_toNat _ hk, BitVec.toNat_ofNat, Nat.mod_eq_of_lt (by omega : 8 * msg.length < 2 ^ 64)]

/-! ## The schedule (R162, R163) -/

/-- Bit `k` lies in one of the four bytes, and the other three have a 0 where they are asked for it. -/
theorem be32_eq_or (b0 b1 b2 b3 : Byte) :
    be32 b0 b1 b2 b3 =
      (b0.setWidth 32 <<< 24) ||| (b1.setWidth 32 <<< 16) ||| (b2.setWidth 32 <<< 8) ||| b3.setWidth 32 := by
  refine BitVec.eq_of_getLsbD_eq fun k hk => ?_
  have hout (b : Byte) (i : Nat) (hi : 8 ≤ i) : b.getLsbD i = false := BitVec.getLsbD_of_ge b i hi
  simp only [be32, BitVec.getLsbD_append, BitVec.getLsbD_or, BitVec.getLsbD_shiftLeft, BitVec.getLsbD_setWidth, hk, decide_true,
    Bool.true_and]
  grind

theorem loadWords_getD (n : Nat) (b : List Byte) {j : Nat} (hj : j < n) :
    (loadWords n b).getD j 0 =
      be32 (b.getD (4 * j) 0) (b.getD (4 * j + 1) 0) (b.getD (4 * j + 2) 0) (b.getD (4 * j + 3) 0) := by
  induction n generalizing b j with
  | zero => omega
  | succ n ih =>
    cases j with
    | zero => rfl
    | succ j =>
      rw [loadWords, List.getD_cons_succ, ih _ (Nat.lt_of_succ_lt_succ hj), Nat.mul_add_one, Nat.add_comm (4 * j) 4]
      simp only [List.getD_eq_getElem?_getD, List.getElem?_drop, Nat.add_assoc]

/-- Expansion appends to the words it starts from. -/
theorem prefix_expandWords (n : Nat) (w : List Word) : w <+: expandWords n w := by
  induction n generalizing w with
  | zero => exact List.prefix_rfl
  | succ n ih => exact (List.prefix_append w _).trans (ih _)

theorem expandWords_getD_of_lt (n : Nat) {w : List Word} {i : Nat} (hi : i < w.length) :
    (expandWords n w).getD i 0 = w.getD i 0 := by
  obtain ⟨rest, hrest⟩ := prefix_expandWords n w
  rw [← hrest, List.getD_append _ _ _ _ hi]

theorem expandWords_take (n : Nat) (w : List Word) : (expandWords n w).take w.length = w :=
  (List.prefix_iff_eq_take.mp (prefix_expandWords n w)).symm

/-- Every word that expansion appends is the next word of those before it. -/
theorem expandWords_getD (n : Nat) {w : List Word} {i : Nat} (hlo : w.length ≤ i) (hhi : i < w.length + n) :
    (expandWords n w).getD i 0 = nextWord ((expandWords n w).take i) := by
  induction n generalizing w with
  | zero => omega
  | succ n ih =>
    obtain rfl | hlt := hlo.eq_or_lt
    · rw [expandWords_take, expandWords, expandWords_getD_of_lt n (by simp)]
      simp
    · exact ih (by simpa using hlt) (by simp; omega)

theorem nextWord_take {w : List Word} {i : Nat} (h16 : 16 ≤ i) (hi : i ≤ w.length) :
    nextWord (w.take i) = ssig1 (w.getD (i - 2) 0) + w.getD (i - 7) 0 + ssig0 (w.getD (i - 15) 0) + w.getD (i - 16) 0 := by
  have hget {d : Nat} (hd : 0 < d) : (w.take i).getD (i - d) 0 = w.getD (i - d) 0 := by
    rw [List.getD_eq_getElem?_getD, List.getElem?_take_of_lt (by omega), List.getD_eq_getElem?_getD]
  rw [nextWord, List.length_take_of_le hi, hget (by decide), hget (by decide), hget (by decide), hget (by decide)]

/-- Settles O28: the loaded words stay, and each further one is the next word of those before it. -/
theorem scheduleFollowsRecurrence : Obligations.ScheduleFollowsRecurrence := by
  unfold Obligations.ScheduleFollowsRecurrence
  intro b _
  refine ⟨schedule_length b, fun j hj => ?loaded, fun i hlo hhi => ?expanded⟩
  case loaded =>
    rw [schedule, expandWords_getD_of_lt 48 (by rwa [loadWords_length]), loadWords_getD 16 b hj, be32_eq_or]
  case expanded =>
    rw [← nextWord_take hlo (by rw [schedule_length]; exact hhi.le)]
    exact expandWords_getD 48 (by rwa [loadWords_length]) (by rwa [loadWords_length])

/-! ## Rounds (R164) -/

/-- Settles O29: round `n` finds the round counter at `n` and the schedule as loaded. -/
theorem roundsUpdateRegisters : Obligations.RoundsUpdateRegisters := by
  unfold Obligations.RoundsUpdateRegisters
  rintro r n - p q hp rfl
  obtain ⟨ht, hh, hw, -, -⟩ := ShaRegs.rounds_frame n r.loadBlock
  rw [← hp] at ht hh hw
  rw [ShaRegs.rounds_succ, ← hp]
  refine ⟨?start, ?t1, rfl, rfl, rfl, rfl, rfl, rfl, rfl, rfl, rfl, hh⟩
  case start =>
    rintro rfl
    rw [hp]
    rfl
  case t1 =>
    show p.nextT1 = _
    rw [ShaRegs.nextT1, ht, hw, ShaRegs.loadBlock_t, Nat.zero_add, ShaRegs.loadBlock_w, scheduleVec_toList]

/-! ## Blocks (R161, R165, R166) -/

theorem ShaRegs.blocks_frame (n : Nat) (r : ShaRegs) :
    (ShaRegs.blocks n r).blk = r.blk + n ∧ (ShaRegs.blocks n r).pm = r.pm := by
  induction n with
  | zero => exact ⟨rfl, rfl⟩
  | succ n ih =>
    obtain ⟨hblk, hpm⟩ := ih
    obtain ⟨hblk', hpm'⟩ := ShaRegs.block_frame (ShaRegs.blocks n r)
    rw [ShaRegs.blocks_succ]
    exact ⟨by rw [hblk', hblk, Nat.add_assoc], hpm'.trans hpm⟩

/-- A block adds the working registers after its rounds into the chaining state it began with. -/
theorem ShaRegs.block_hh (r : ShaRegs) {e : ShaRegs} (he : e = ShaRegs.rounds 64 r.loadBlock) :
    r.block.hh = ⟨r.hh.w0 + e.a, r.hh.w1 + e.b, r.hh.w2 + e.c, r.hh.w3 + e.d, r.hh.w4 + e.e, r.hh.w5 + e.f, r.hh.w6 + e.g,
      r.hh.w7 + e.h⟩ := by
  obtain ⟨-, hh, -⟩ := ShaRegs.rounds_frame 64 r.loadBlock
  rw [← he, ShaRegs.loadBlock_hh] at hh
  rw [ShaRegs.block, ← he, ← hh]
  rfl

/-- Settles O30: the counters by `blocks_frame`, the sums by `block_hh`, and `Sha` takes as many blocks as the message has. -/
theorem blocksAccumulateInOrder : Obligations.BlocksAccumulateInOrder := by
  unfold Obligations.BlocksAccumulateInOrder
  rintro msg n p q e hp rfl he
  obtain ⟨hblk, hpm⟩ := ShaRegs.blocks_frame n (ShaRegs.initial.start msg)
  rw [← hp] at hblk hpm
  replace hblk : p.blk = n := hblk.trans (Nat.zero_add n)
  replace hpm : p.pm = pad msg := hpm
  rw [ShaRegs.blocks_succ, ← hp]
  refine ⟨?start, hblk, hpm, by rw [hblk, hpm, blockBytes], ShaRegs.block_hh p he, fun hn => ?result⟩
  case start =>
    rintro rfl
    rw [hp]
    rfl
  case result =>
    have hcount : (pad msg).length / 64 = n := by omega
    rw [sha, ShaRegs.run, hcount, ← hp]

/-! ## The text (R167) -/

theorem hexDigit_toNat (v : BitVec 4) : (hexDigit v).toNat = if v.toNat < 10 then 0x30 + v.toNat else 0x61 + v.toNat - 10 := by
  revert v
  decide

theorem hexWord_getD (d : Word) {q : Nat} (hq : q < 8) : (hexWord d).getD q 0 = hexDigit (d.extractLsb' (4 * (7 - q)) 4) := by
  interval_cases q <;> rfl

/-- Each word contributes eight characters. -/
theorem flatMap_hexWord_getD (l : List Word) (j : Nat) {q : Nat} (hj : j < l.length) (hq : q < 8) :
    (l.flatMap hexWord).getD (8 * j + q) 0 = (hexWord l[j]).getD q 0 := by
  induction l generalizing j with
  | nil => cases hj
  | cons d rest ih =>
    have hlen : (hexWord d).length = 8 := rfl
    rw [List.flatMap_cons]
    cases j with
    | zero => rw [List.getD_append _ _ _ _ (by omega), Nat.mul_zero, Nat.zero_add, List.getElem_cons_zero]
    | succ j =>
      rw [List.getD_append_right _ _ _ _ (by omega), List.getElem_cons_succ, ← ih j (Nat.lt_of_succ_lt_succ hj), hlen]
      congr 1
      omega

theorem Chain.toList_getElem (d : Chain) (j : Fin 8) : d.toList[j.val]'j.isLt = d.get j := by
  fin_cases j <;> rfl

/-- Settles O31: the character is one of its word's eight, and the digit one of the word's eight nibbles. -/
theorem hexRenderGivesDigits : Obligations.HexRenderGivesDigits := by
  unfold Obligations.HexRenderGivesDigits
  refine fun d => ⟨hexRender_length d, fun j q hq v hv => ?_⟩
  have hnibble : ((d.get j).extractLsb' (4 * (7 - q)) 4).toNat = v := by
    rw [BitVec.extractLsb'_toNat, Nat.shiftRight_eq_div_pow, Nat.pow_mul, hv]
  rw [hexRender, flatMap_hexWord_getD _ _ j.isLt hq, Chain.toList_getElem, hexWord_getD _ hq, hexDigit_toNat, hnibble]

/-! ## DIGEST (R168) -/

/-- Settles O32: the working storage after a digest holds `Sha` of the message, whatever it held before. -/
theorem digestWritesHash : Obligations.DigestWritesHash := by
  unfold Obligations.DigestWritesHash
  refine ⟨by decide, fun s => ⟨s.sha.run s.input, ?effect, s.input_length, fun k hk => ?bytes⟩⟩
  case effect =>
    rw [exec, execDigest, State.digestInto, ShaRegs.run_hh]
    rfl
  case bytes =>
    have hlt : k < s.input.length := s.input_length.symm ▸ hk
    rw [List.getD_eq_getElem _ _ hlt, State.input_getElem]

end Sys2Proof.Machine
end

section
/-! SUPPORT. TokenEmitter: the decimal digits of a number, the template (R181, R182), the two `EMIT` commands (R184, R185), and why a valid
token has the template's form (R186). -/

namespace Sys2Proof.Machine

/-! ## Decimal rendering (R181) -/

/-- With fuel for all its digits, a number has one digit more than the integer part of its logarithm. -/
theorem decimalDigits_eq_log {fuel v : Nat} (hv : v < 10 ^ (fuel + 1)) : decimalDigits fuel v = Nat.log 10 v + 1 := by
  induction fuel generalizing v with
  | zero => rw [decimalDigits, Nat.log_of_lt (by simpa using hv)]
  | succ fuel ih =>
    rw [decimalDigits]
    split
    · next hlt => rw [Nat.log_of_lt hlt]
    · next hge =>
      rw [ih (Nat.div_lt_of_lt_mul (by rwa [← Nat.pow_succ'])), Nat.log_of_one_lt_of_le (by decide) (Nat.not_lt.mp hge)]

@[simp] theorem digitsFrom_length (d v : Nat) : (digitsFrom d v).length = d := by
  induction d with
  | zero => rfl
  | succ d ih => rw [digitsFrom, List.length_cons, ih]

theorem digitsFrom_getD (v : Nat) {d k : Nat} (hk : k < d) :
    (digitsFrom d v).getD k 0 = 0x30 + BitVec.ofNat 8 (v / 10 ^ (d - 1 - k) % 10) := by
  induction d generalizing k with
  | zero => cases hk
  | succ d ih =>
    cases k with
    | zero => rfl
    | succ k =>
      rw [digitsFrom, List.getD_cons_succ, ih (Nat.lt_of_succ_lt_succ hk), Nat.add_sub_cancel, Nat.sub_sub, Nat.add_comm 1 k]

/-- The character of a digit. -/
theorem digitChar_toNat {n : Nat} (hn : n < 10) : (0x30 + BitVec.ofNat 8 n : Byte).toNat = 0x30 + n := by
  interval_cases n <;> rfl

theorem decRender_length (v : Word) : (decRender v).length = Nat.log 10 v.toNat + 1 := by
  rw [decRender, digitsFrom_length, decimalDigits_eq_log (by omega)]

theorem decRender_length_le (v : Word) : (decRender v).length ≤ 10 := by
  rw [decRender_length]
  exact Nat.log_lt_of_lt_pow' (by decide) (by omega)

/-- Settles O33: the length is that of the logarithm, the characters are `digitsFrom_getD`. -/
theorem decRenderGivesDigits : Obligations.DecRenderGivesDigits := by
  unfold Obligations.DecRenderGivesDigits
  intro v d hd
  have hlog : d = Nat.log 10 v.toNat + 1 := hd.trans (decRender_length v)
  refine ⟨?pos, hd ▸ decRender_length_le v, ?upper, fun hv => ?lower, fun k hk => ?digit, by decide⟩
  case pos => omega
  case upper =>
    rw [hlog]
    exact Nat.lt_pow_succ_log_self (by decide) _
  case lower =>
    rw [hlog]
    exact Nat.pow_log_le_self 10 (BitVec.toNat_ne_iff_ne.mpr hv)
  case digit =>
    have hdigits : decimalDigits 9 v.toNat = d := by rw [hd, decRender, digitsFrom_length]
    rw [decRender, hdigits, digitsFrom_getD _ hk, digitChar_toNat (Nat.mod_lt _ (by decide))]

/-! ## The template (R182) -/

theorem tokenWrap_length {x : List Byte} (hx : x.length = 64) : (tokenWrap x).length = 73 := by
  simp [tokenWrap, tokenHead, hx]

theorem tokenWrap_take (x : List Byte) : (tokenWrap x).take 8 = tokenHead := rfl

/-- The 64 characters come after the head. -/
theorem tokenWrap_getD_middle {x : List Byte} {k : Nat} (hk : k < x.length) : (tokenWrap x).getD (8 + k) 0 = x.getD k 0 := by
  have hafter : 8 + k - tokenHead.length = k := Nat.add_sub_cancel_left 8 k
  rw [tokenWrap, List.append_assoc, List.getD_append_right tokenHead _ _ (8 + k) (Nat.le_add_right 8 k), hafter, List.getD_append _ _ _ _ hk]

/-- The closing brace comes after them. -/
theorem tokenWrap_getD_last {x : List Byte} (hx : x.length = 64) : (tokenWrap x).getD 72 0 = 0x7D := by
  rw [tokenWrap, List.getD_append_right _ _ _ _ (by simp [tokenHead, hx])]
  simp [tokenHead, hx]

/-- Settles O34, part by part. -/
theorem tokenWrapLayout : Obligations.TokenWrapLayout := by
  unfold Obligations.TokenWrapLayout
  exact fun x hx => ⟨tokenWrap_length hx, tokenWrap_take x, fun k hk => tokenWrap_getD_middle (hx ▸ hk), tokenWrap_getD_last hx⟩

/-! ## The `EMIT` commands (R184, R185) -/

theorem Status.accepted_iff (f : Status) (pol : Bool) : f.accepted pol = true ↔ f.vv = true ∧ f.verdict = true ∧ f.vpol = pol := by
  simp [Status.accepted, and_assoc]

theorem execEmitA_of_accepted {s : State} (h : s.status.accepted false = true) :
    execEmitA s = .next
      { s.emitFrom (decRender s.cand) with dec := overlay s.dec (decRender s.cand), dlen := (decRender s.cand).length } :=
  if_pos h

theorem execEmitA_of_not_accepted {s : State} (h : ¬ s.status.accepted false = true) :
    execEmitA s = .next (raiseFault .notAccepted s) :=
  if_neg h

theorem execEmitB_of_accepted {s : State} (h : s.status.accepted true = true) : execEmitB s = .next (s.emitFrom s.input) :=
  if_pos h

theorem execEmitB_of_not_accepted {s : State} (h : ¬ s.status.accepted true = true) :
    execEmitB s = .next (raiseFault .notAccepted s) :=
  if_neg h

/-- What an `EMIT` writes is made of `Sha` of its message, whatever the digest storage held before. -/
theorem State.emitFrom_eq (s : State) (text : List Byte) :
    s.emitFrom text =
      { s with
        msg := text
        sha := s.sha.run text
        dout := Machine.sha text
        hex := Machine.hexText (Machine.sha text)
        token := tokenText (Machine.sha text)
        status := s.status.setToken } := by
  rw [State.emitFrom, State.digestInto, ShaRegs.run_hh]

/-- `DEC` begins with the digits just written. -/
theorem overlay_take (old : Vector Byte 10) {l : List Byte} (hl : l.length ≤ 10) : (overlay old l).toList.take l.length = l := by
  show ((l ++ old.toList.drop l.length).take 10).take l.length = l
  rw [List.take_take, Nat.min_eq_left hl, List.take_left]

/-- Settles O35: the two sides of the gate, and a rendering of at most ten characters fits in `DEC`. -/
theorem emitAWritesToken : Obligations.EmitAWritesToken := by
  unfold Obligations.EmitAWritesToken
  refine ⟨by decide, fun s => ⟨fun hvv hverdict hvpol => ?accepted, fun hgate => ?refused⟩⟩
  case accepted =>
    refine ⟨s.sha.run (decRender s.cand), overlay s.dec (decRender s.cand), ?effect, tokenText_toList _,
      overlay_take s.dec (decRender_length_le s.cand)⟩
    rw [exec, execEmitA_of_accepted ((s.status.accepted_iff false).mpr ⟨hvv, hverdict, hvpol⟩), State.emitFrom_eq]
    rfl
  case refused => exact execEmitA_of_not_accepted (mt (s.status.accepted_iff false).mp hgate)

/-- An accepting verdict of Policy Array-Equality is that of 16 input bytes (R33.5, R137). -/
theorem Inv.input_length_of_accepted {s : State} (h : Inv s) (ha : s.status.accepted true = true) : s.input.length = 16 := by
  obtain ⟨hvv, hverdict, hvpol⟩ := (s.status.accepted_iff true).mp ha
  have hB : verifyB s.cfg s.input = true := (h.ofInput hvv hvpol).symm.trans hverdict
  by_contra hne
  rw [verifyB_of_length_ne s.cfg hne] at hB
  cases hB

/-- On the digest's domain (R151) `TokenB` has a value. -/
theorem tokenB_eq {l : List Byte} (hl : l.length < 2 ^ 61) : tokenB l = some (tokenWrap (hexRender (sha l))) := by
  rw [tokenB, digestText, if_pos hl, Option.map_some]

/-- Settles O36: the two sides of the gate; the invariants give the length. -/
theorem emitBWritesToken : Obligations.EmitBWritesToken := by
  unfold Obligations.EmitBWritesToken
  refine ⟨by decide, fun s => ⟨fun hvv hverdict hvpol => ?accepted, fun hgate => ?refused⟩⟩
  case accepted =>
    have ha : s.status.accepted true = true := (s.status.accepted_iff true).mpr ⟨hvv, hverdict, hvpol⟩
    refine ⟨⟨s.sha.run s.input, ?effect⟩, fun hinv => ?length⟩
    case effect =>
      rw [exec, execEmitB_of_accepted ha, State.emitFrom_eq]
      rfl
    case length =>
      have hlen : s.input.length = 16 := hinv.input_length_of_accepted ha
      refine ⟨BitVec.eq_of_toNat_eq (s.input_length.symm.trans hlen), ?_⟩
      rw [tokenB_eq (by rw [hlen]; decide), tokenText_toList]
  case refused => exact execEmitB_of_not_accepted (mt (s.status.accepted_iff true).mp hgate)

/-! ## The token's form (R186) -/

theorem isHexChar_iff (b : Byte) :
    isHexChar b = true ↔ (0x30 ≤ b.toNat ∧ b.toNat ≤ 0x39) ∨ (0x61 ≤ b.toNat ∧ b.toNat ≤ 0x66) := by
  simp [isHexChar]

/-- A token is 64 hex characters, wrapped. -/
theorem exists_tokenWrap_of_isToken {l : List Byte} (h : isToken l = true) :
    ∃ x : List Byte, x.length = 64 ∧ x.all isHexChar = true ∧ l = tokenWrap x := by
  simp only [isToken, Bool.and_eq_true, beq_iff_eq] at h
  obtain ⟨⟨⟨hlen, hhead⟩, hmiddle⟩, hlast⟩ := h
  refine ⟨(l.drop 8).take 64, by simp [hlen], hmiddle, ?_⟩
  calc l
    _ = l.take 8 ++ ((l.drop 8).take 64 ++ (l.drop 8).drop 64) := by rw [List.take_append_drop, List.take_append_drop]
    _ = tokenWrap ((l.drop 8).take 64) := by rw [List.drop_drop, hlast, hhead, tokenWrap, List.append_assoc]

/-- An `EMIT` behind its gate writes a token, and nothing else an instruction can do touches `TOKEN` or `TV`. -/
theorem TokenFormed.exec {i : Instr} {s t : State} (h : TokenFormed s) (ht : exec i s = .next t) : TokenFormed t := by
  cases hc : i.isCommand with
  | false =>
    rw [exec_micro_inv hc ht]
    exact h
  | true =>
    obtain ⟨rfl, -, -⟩ | ⟨rfl, -⟩ | ⟨-, rfl⟩ | ⟨-, -, rfl⟩ | ⟨-, -, -, rfl⟩ | ⟨-, -, -, rfl⟩ | ⟨-, -, rfl⟩ | ⟨-, -, rfl⟩ |
      ⟨-, rfl⟩ := exec_command_cases hc ht
    · exact h
    · exact h
    · exact h
    · exact h
    · exact h
    · exact h
    · exact fun _ => isToken_tokenText _
    · exact fun _ => isToken_tokenText _
    · exact h

theorem TokenFormed.hostWrite {offset : Nat} {d : Datum} {s t : State} (h : TokenFormed s) (ht : hostWrite offset d s = .next t) :
    TokenFormed t := by
  obtain ⟨-, rfl⟩ | ⟨-, ⟨c, -, rfl⟩ | ⟨v, rfl⟩ | ⟨v, -, rfl⟩ | ⟨i, b, -, rfl⟩ | ⟨w, i, -, -, -, hi⟩⟩ := hostWrite_cases ht
  case inr.inr.inr.inr.inr => exact h.exec hi
  all_goals exact h

/-- Reset clears `TV`, and of the other steps only a write can reach `TOKEN`. -/
theorem TokenFormed.step {s t : State} (h : TokenFormed s) (ht : step s = .next t) : TokenFormed t := by
  obtain ⟨u, i, -, -, rfl⟩ | ⟨-, -, rfl⟩ | ⟨rest, -, rfl⟩ | ⟨offset, w, rest, -, rfl⟩ | ⟨offset, d, rest, -, hw⟩ := step_cases ht
  · exact h
  · exact h
  · exact nofun
  · obtain ⟨v, n, hread⟩ := hostRead_eq offset w { s with host := rest }
    rw [hread]
    exact h
  · exact TokenFormed.hostWrite (s := { s with host := rest }) h hw

theorem token_getElem (s : State) (k : Fin 73) : s.token[k] = s.token.toList.getD k 0 := by
  simp

/-- Settles O37: the bytes of a wrapped text are where `tokenWrap` puts them. -/
theorem tokenKeepsTemplate : Obligations.TokenKeepsTemplate := by
  unfold Obligations.TokenKeepsTemplate
  refine ⟨fun s t h ht => h.step ht, fun c n => (Inv.afterReset c n).token, fun s h htv => ?template⟩
  obtain ⟨x, hlen, hx, htoken⟩ := exists_tokenWrap_of_isToken (h htv)
  refine ⟨by rw [htoken, tokenWrap_take], ?last, fun k hlo hhi => ?middle⟩
  case last =>
    calc s.token[72]
      _ = s.token.toList.getD 72 0 := token_getElem s 72
      _ = 0x7D := by rw [htoken, tokenWrap_getD_last hlen]
  case middle =>
    obtain ⟨j, hj⟩ := Nat.exists_eq_add_of_le hlo
    have hjx : j < x.length := by omega
    rw [token_getElem, htoken, hj, tokenWrap_getD_middle hjx, List.getD_eq_getElem _ _ hjx]
    exact (isHexChar_iff _).mp (List.all_eq_true.mp hx _ (List.getElem_mem hjx))

end Sys2Proof.Machine
end

section
/-! SUPPORT. Faults (R190 to R196): the fault of a command's gate, the fault of a write event, and that a fault once raised stays until
Reset. -/

namespace Sys2Proof.Machine

/-! ## The order of checks (R194, R196) -/

/-- While `ERR` = 1 a write is ignored before any other check. -/
theorem hostWrite_of_err {s : State} (he : s.status.err = true) (offset : Nat) (d : Datum) : hostWrite offset d s = .next s := by
  rw [hostWrite, if_pos he]

/-- A word register is named by word data alone (R58). -/
theorem exists_word_of_locate {n offset : Nat} {d : Datum} {g : Target} (hl : locate n offset d.width = g)
    (hg : g ≠ .undefinedOffset) (hw : g.width = .word) : ∃ v, d = .word v := by
  have hd : d.width = .word := (locate_inv hl hg).2.trans hw
  cases d with
  | word v => exact ⟨v, rfl⟩
  | byte | half | wide => cases hd

/-- A byte array is named by byte data alone (R58). -/
theorem exists_byte_of_locate {n offset : Nat} {d : Datum} {g : Target} (hl : locate n offset d.width = g)
    (hg : g ≠ .undefinedOffset) (hb : g.width = .byte) : ∃ b, d = .byte b := by
  have hd : d.width = .byte := (locate_inv hl hg).2.trans hb
  cases d with
  | byte b => exact ⟨b, rfl⟩
  | word | half | wide => cases hd

/-- What a datum is written to: what the host may not write, or a writable register or array with a datum of its width (R58). -/
theorem target_datum_cases {n offset : Nat} {d : Datum} {g : Target} (hl : locate n offset d.width = g) :
    g.writable = false ∨ (∃ w, g = .cmd ∧ d = .word w) ∨ (∃ v, g = .ilen ∧ d = .word v) ∨ (∃ v, g = .cand ∧ d = .word v) ∨
      (∃ i b, g = .ibuf i ∧ d = .byte b) := by
  cases hw : g.writable with
  | false => exact .inl rfl
  | true =>
    obtain rfl | rfl | rfl | ⟨i, rfl⟩ := g.writable_iff.mp hw
    · obtain ⟨w, rfl⟩ := exists_word_of_locate hl nofun rfl
      exact .inr (.inl ⟨w, rfl, rfl⟩)
    · obtain ⟨v, rfl⟩ := exists_word_of_locate hl nofun rfl
      exact .inr (.inr (.inr (.inl ⟨v, rfl, rfl⟩)))
    · obtain ⟨v, rfl⟩ := exists_word_of_locate hl nofun rfl
      exact .inr (.inr (.inl ⟨v, rfl, rfl⟩))
    · obtain ⟨b, rfl⟩ := exists_byte_of_locate hl nofun rfl
      exact .inr (.inr (.inr (.inr ⟨i, b, rfl, rfl⟩)))

theorem issue_of_decode {s : State} {w : Word} {i : Instr} (hd : decodeCommand w = some i) : issue w s = exec i s := by
  simp only [issue, decode, hd]

theorem issue_of_illegal {s : State} {w : Word} (hd : decodeCommand w = none) :
    issue w s = .next (raiseFault .illegalCommand s) := by
  simp only [issue, decode, hd]

/-- Settles O53: `ERR` goes first, and then what the access names decides which operation `writeTarget` runs. -/
theorem writeChecksInOrder : Obligations.WriteChecksInOrder := by
  unfold Obligations.WriteChecksInOrder
  intro s offset d g hg
  refine ⟨fun he => hostWrite_of_err he offset d, fun he => ?accepted⟩
  have hwrite : hostWrite offset d s = writeTarget g d s := hostWrite_of_locate he hg.symm
  rw [hwrite]
  refine ⟨fun hro => writeTarget_of_not_writable hro d s, ?ilen, ?cand, ?ibuf, ?cmd⟩
  case ilen | cand =>
    rintro rfl
    obtain ⟨v, rfl⟩ := exists_word_of_locate hg.symm nofun rfl
    exact ⟨v, rfl, rfl⟩
  case ibuf =>
    rintro i rfl
    obtain ⟨b, rfl⟩ := exists_byte_of_locate hg.symm nofun rfl
    exact ⟨b, rfl, rfl⟩
  case cmd =>
    rintro rfl
    obtain ⟨w, rfl⟩ := exists_word_of_locate hg.symm nofun rfl
    exact ⟨w, rfl, issue_of_illegal, fun _ => issue_of_decode⟩

/-! ## The fault of a command's gate (R25, R190) -/

/-- The fault with which its gate stops a command, none where the gate holds or there is none. -/
def gateFault (s : State) (i : Instr) : Option Cause :=
  match i with
  | .verifyA | .verifyB => if s.status.refv then none else some .notDerived
  | .emitA => if s.status.accepted false then none else some .notAccepted
  | .emitB => if s.status.accepted true then none else some .notAccepted
  | _ => none

theorem gateFault_eq_some_iff {s : State} {i : Instr} {c : Cause} :
    gateFault s i = some c ↔
      (c = .notDerived ∧ s.status.refv = false ∧ (i = .verifyA ∨ i = .verifyB)) ∨
      (c = .notAccepted ∧
        ((i = .emitA ∧ ¬ s.status.accepted false = true) ∨ (i = .emitB ∧ ¬ s.status.accepted true = true))) := by
  cases i with
  | verifyA | verifyB | emitA | emitB => simp [gateFault, and_comm, @eq_comm _ c]
  | _ => simp [gateFault]

/-- The words whose command the gate `REFV` stops. -/
theorem issued_notDerived_iff (s : State) (w : Word) :
    (∃ i, decodeCommand w = some i ∧ gateFault s i = some .notDerived) ↔
      s.status.refv = false ∧ (decodeCommand w = some .verifyA ∨ decodeCommand w = some .verifyB) := by
  cases decodeCommand w <;> simp [gateFault_eq_some_iff]

/-- The words whose command the gate of its `EMIT` stops. -/
theorem issued_notAccepted_iff (s : State) (w : Word) :
    (∃ i, decodeCommand w = some i ∧ gateFault s i = some .notAccepted) ↔
      (decodeCommand w = some .emitA ∧ ¬ s.status.accepted false = true) ∨
        (decodeCommand w = some .emitB ∧ ¬ s.status.accepted true = true) := by
  cases decodeCommand w <;> simp [gateFault_eq_some_iff]

/-- A command that its gate stops raises the fault of the gate and does nothing else. -/
theorem exec_of_gateFault {s : State} {i : Instr} {c : Cause} (h : gateFault s i = some c) : exec i s = .next (raiseFault c s) := by
  obtain ⟨rfl, hrefv, rfl | rfl⟩ | ⟨rfl, ⟨rfl, ha⟩ | ⟨rfl, ha⟩⟩ := gateFault_eq_some_iff.mp h
  · exact execVerifyA_of_not_refv hrefv
  · exact execVerifyB_of_not_refv hrefv
  · exact execEmitA_of_not_accepted ha
  · exact execEmitB_of_not_accepted ha

/-- A command that passes its gate raises no fault while it computes (R190). -/
theorem exec_of_gate_passed {s : State} {i : Instr} (hc : i.isCommand = true) (h : gateFault s i = none) :
    ∃ t, exec i s = .next t ∧ t.status.err = s.status.err ∧ t.status.cause = s.status.cause := by
  obtain ⟨t, ht⟩ := exec_command_next hc s
  refine ⟨t, ht, ?_⟩
  obtain ⟨-, hi, hrefv⟩ | ⟨-, hi⟩ | ⟨-, rfl⟩ | ⟨-, -, rfl⟩ | ⟨-, -, -, rfl⟩ | ⟨-, -, -, rfl⟩ | ⟨-, -, rfl⟩ | ⟨-, -, rfl⟩ |
    ⟨-, rfl⟩ := exec_command_cases hc ht
  · rw [gateFault_eq_some_iff.mpr (.inl ⟨rfl, hrefv, hi⟩)] at h
    cases h
  · rw [gateFault_eq_some_iff.mpr (.inr ⟨rfl, by simpa only [Bool.not_eq_true] using hi⟩)] at h
    cases h
  all_goals exact ⟨rfl, rfl⟩

/-- Settles O54: the premises say that the gate raises no fault. -/
theorem gatedCommandsDoNotFault : Obligations.GatedCommandsDoNotFault := by
  unfold Obligations.GatedCommandsDoNotFault
  intro i s hc hrefv hemitA hemitB
  refine exec_of_gate_passed hc (Option.eq_none_iff_forall_ne_some.mpr fun c h => ?_)
  obtain ⟨-, hno, hi⟩ | ⟨-, ⟨hi, hno⟩ | ⟨hi, hno⟩⟩ := gateFault_eq_some_iff.mp h
  · exact absurd (hrefv hi) (by rw [hno]; decide)
  · exact hno (hemitA hi)
  · exact hno (hemitB hi)

/-! ## The fault of a write event (R191, R193) -/

/-- The fault that a write of a datum to what its access names raises while `ERR` = 0, none where the write is carried out. -/
def writeFault (s : State) (g : Target) (d : Datum) : Option Cause :=
  match g, d with
  | .cmd, .word w => (decodeCommand w).elim (some .illegalCommand) (gateFault s)
  | .ilen, .word v => if s.cfg.ibufMax < v.toNat then some .lengthOverflow else none
  | .cand, .word _ => none
  | .ibuf _, .byte _ => none
  | _, _ => some .badAccess

theorem writeFault_of_not_writable {s : State} {g : Target} (h : g.writable = false) (d : Datum) :
    writeFault s g d = some .badAccess := by
  cases g with
  | cmd | cand | ilen | ibuf => cases h
  | _ => rfl

/-- When each fault is raised (R191). -/
theorem writeFault_eq_some_iff {s : State} {n offset : Nat} {d : Datum} {g : Target} {c : Cause} (hl : locate n offset d.width = g) :
    writeFault s g d = some c ↔
      (c = .badAccess ∧ g.writable = false) ∨
      (c = .lengthOverflow ∧ ∃ v, g = .ilen ∧ d = .word v ∧ s.cfg.ibufMax < v.toNat) ∨
      (∃ w, g = .cmd ∧ d = .word w ∧
        ((c = .illegalCommand ∧ decodeCommand w = none) ∨ ∃ i, decodeCommand w = some i ∧ gateFault s i = some c)) := by
  obtain hro | ⟨w, rfl, rfl⟩ | ⟨v, rfl, rfl⟩ | ⟨v, rfl, rfl⟩ | ⟨i, b, rfl, rfl⟩ := target_datum_cases hl
  · have hcmd : g ≠ .cmd := fun h => by cases h ▸ hro
    have hilen : g ≠ .ilen := fun h => by cases h ▸ hro
    simp [writeFault_of_not_writable hro, hro, hcmd, hilen, @eq_comm _ c]
  · cases hd : decodeCommand w <;> simp [writeFault, Target.writable, hd, @eq_comm _ c]
  · simp [writeFault, Target.writable, and_comm, @eq_comm _ c]
  · simp [writeFault, Target.writable]
  · simp [writeFault, Target.writable]

/-- A write raises its fault and does nothing else, or it raises none. -/
theorem hostWrite_faults_or_completes {s : State} {offset : Nat} {d : Datum} {g : Target} (he : s.status.err = false)
    (hl : locate s.cfg.ibufMax offset d.width = g) :
    (∃ c, writeFault s g d = some c ∧ hostWrite offset d s = .next (raiseFault c s)) ∨
      (writeFault s g d = none ∧ ∃ t, hostWrite offset d s = .next t ∧ t.status.err = false) := by
  rw [hostWrite_of_locate he hl]
  obtain hro | ⟨w, rfl, rfl⟩ | ⟨v, rfl, rfl⟩ | ⟨v, rfl, rfl⟩ | ⟨i, b, rfl, rfl⟩ := target_datum_cases hl
  · exact .inl ⟨.badAccess, writeFault_of_not_writable hro d, writeTarget_of_not_writable hro d s⟩
  · simp only [writeFault, writeTarget]
    cases hd : decodeCommand w with
    | none => exact .inl ⟨.illegalCommand, rfl, issue_of_illegal hd⟩
    | some i =>
      rw [issue_of_decode hd, Option.elim_some]
      cases hf : gateFault s i with
      | some c => exact .inl ⟨c, rfl, exec_of_gateFault hf⟩
      | none =>
        obtain ⟨t, ht, herr, -⟩ := exec_of_gate_passed (decodeCommand_sound hd) hf
        exact .inr ⟨rfl, t, ht, herr.trans he⟩
  · by_cases hv : s.cfg.ibufMax < v.toNat
    · exact .inl ⟨.lengthOverflow, if_pos hv, congrArg Host.Outcome.next (if_pos hv)⟩
    · exact .inr ⟨if_neg hv, s.storeIlen v, congrArg Host.Outcome.next (if_neg hv), he⟩
  · exact .inr ⟨rfl, s.storeCand v, rfl, he⟩
  · exact .inr ⟨rfl, s.storeIbuf i b, rfl, he⟩

/-- After a write `ERR` and `CAUSE` show the fault of the write. -/
theorem hostWrite_raises_iff {s : State} {offset : Nat} {d : Datum} {g : Target} (he : s.status.err = false)
    (hl : locate s.cfg.ibufMax offset d.width = g) :
    ∃ t, hostWrite offset d s = .next t ∧ ∀ c, (t.status.err = true ∧ t.status.cause = c) ↔ writeFault s g d = some c := by
  obtain ⟨c, hf, ht⟩ | ⟨hf, t, ht, herr⟩ := hostWrite_faults_or_completes he hl
  · exact ⟨raiseFault c s, ht, fun c' => by simp [hf]⟩
  · exact ⟨t, ht, fun c' => by simp [hf, herr]⟩

/-- Settles O49: the fault of a write is that of `writeFault`, and `writeFault_eq_some_iff` says when it is which. -/
theorem faultCausesAreExact : Obligations.FaultCausesAreExact := by
  unfold Obligations.FaultCausesAreExact
  refine ⟨rfl, fun s offset w => ?read, fun s offset d he => ?write⟩
  case read =>
    obtain ⟨-, hstatus, -⟩ := sameRegisters_hostRead offset w s
    exact hstatus
  case write =>
    obtain ⟨t, ht, hraises⟩ := hostWrite_raises_iff he rfl
    refine ⟨t, ht, ?_⟩
    rintro g rfl
    simp only [hraises, writeFault_eq_some_iff rfl]
    refine ⟨?illegalCommand, ?notDerived, ?notAccepted, ?lengthOverflow, ?badAccess⟩
    case illegalCommand => simp [gateFault_eq_some_iff]
    case notDerived => simp [issued_notDerived_iff]
    case notAccepted => simp [issued_notAccepted_iff, Status.accepted_iff]
    case lengthOverflow => simp [gateFault_eq_some_iff]
    case badAccess => simp [gateFault_eq_some_iff]

/-- Settles O50: a write that leaves `ERR` at 1 has raised its fault. -/
theorem faultEntryIsPrecise : Obligations.FaultEntryIsPrecise := by
  unfold Obligations.FaultEntryIsPrecise
  intro s t offset d he hw ht
  obtain ⟨c, hf, hc⟩ | ⟨-, u, hu, herr⟩ := hostWrite_faults_or_completes (g := locate s.cfg.ibufMax offset d.width) he rfl
  · obtain rfl : raiseFault c s = t := Host.Outcome.next.inj (hc.symm.trans hw)
    refine ⟨rfl, ?_⟩
    rintro rfl
    simp [writeFault_eq_some_iff rfl, gateFault_eq_some_iff] at hf
  · obtain rfl : u = t := Host.Outcome.next.inj (hu.symm.trans hw)
    rw [herr] at ht
    cases ht

/-! ## While `ERR` = 1 (R194, R195) -/

/-- Settles O51: the step is the event's own operation, and taking the event off the host's list leaves `ERR` at 1. -/
theorem faultedEngineIgnoresWrites : Obligations.FaultedEngineIgnoresWrites := by
  unfold Obligations.FaultedEngineIgnoresWrites
  refine fun s rest he => ⟨fun offset d hn => ?write, fun offset w hn => ?read⟩
  case write =>
    calc step s
      _ = hostWrite offset d { s with host := rest } := step_of_nextEvent hn
      _ = .next { s with host := rest } := hostWrite_of_err (s := { s with host := rest }) he offset d
  case read => exact ⟨step_of_nextEvent hn, sameRegisters_hostRead offset w { s with host := rest }⟩

/-- `STATUS` reads 0 after Reset (R220). -/
theorem State.afterReset_toWord (c : Cfg) (n : Nat) : (State.afterReset c n).status.toWord = 0 := by
  simp [Status.toWord]

/-- Settles O52: no step but Reset changes a register, and Reset clears every flag. -/
theorem onlyResetClearsFault : Obligations.OnlyResetClearsFault := by
  unfold Obligations.OnlyResetClearsFault
  refine fun s t he ht => ⟨step_sameRegisters_of_err he ht, ?reset⟩
  case reset =>
    rintro ⟨rest, hn⟩
    rw [step_of_nextEvent hn] at ht
    cases ht
    exact ⟨rfl, rfl, State.afterReset_toWord s.cfg (s.resets + 1), rfl⟩

end Sys2Proof.Machine
end

section
/-! SUPPORT. Reset, and what one event hands on to the next (R220 to R229): what Reset leaves, that every step answers a state, and
that the shared outputs agree and stale input bytes are never read. -/

namespace Sys2Proof.Machine

/-! ## Shared outputs (R224) -/

/-- The text that was wrapped is what stands between the head and the closing brace. -/
theorem tokenWrap_middle {x : List Byte} (hx : x.length = 64) : ((tokenWrap x).drop 8).take 64 = x := by
  have hafter : (tokenWrap x).drop 8 = x ++ [0x7D] := rfl
  rw [hafter, ← hx, List.take_left]

/-- `HEX` and `TOKEN` are written with the text of one digest. -/
theorem State.emitFrom_hex_eq_token_middle (s : State) (text : List Byte) :
    (s.emitFrom text).hex.toList = ((s.emitFrom text).token.toList.drop 8).take 64 := by
  rw [State.emitFrom_hex, State.emitFrom_token, hexText_toList, tokenText_toList, tokenWrap_middle (hexRender_length _)]

/-- Settles O38: either `EMIT` behind its gate is `emitFrom` of its message, and `TOKEN` and `TV` have no writer but the two. -/
theorem outputsAreShared : Obligations.OutputsAreShared := by
  unfold Obligations.OutputsAreShared
  refine fun s t => ⟨fun i hgate h => ?emit, fun h => ?digest⟩
  case emit =>
    obtain ⟨rfl, ha⟩ | ⟨rfl, ha⟩ := hgate
    · rw [exec, execEmitA_of_accepted ha] at h
      cases h
      exact s.emitFrom_hex_eq_token_middle (decRender s.cand)
    · rw [exec, execEmitB_of_accepted ha] at h
      cases h
      exact s.emitFrom_hex_eq_token_middle s.input
  case digest =>
    obtain ⟨-, -, htoken, -⟩ := outputsHaveTheirWriters .digest s t h
    exact htoken nofun nofun

/-! ## Stale bytes of `IBUF` (R227) -/

/-- The input is determined by the bytes below `ILEN`. -/
theorem State.input_congr_below {s t : State} (hl : s.ilen = t.ilen) (h : ∀ k, k < s.ilen.toNat → s.ibufByte k = t.ibufByte k) :
    s.input = t.input := by
  refine List.ext_getElem (by rw [State.input_length, State.input_length, hl]) fun k hs ht => ?_
  rw [State.input_getElem s hs, State.input_getElem t ht]
  exact h k (s.input_length ▸ hs)

/-- The transformed array is that of the input, when the input has its 16 bytes (R136). -/
theorem State.transformed_toList {s : State} (hl : s.ilen = 16) : s.transformed.toList = transform s.cfg 0 s.input := by
  rw [State.input, hl]
  rfl

section
variable {s : State} {m : Memory} (hinput : State.input { s with ibuf := m } = s.input)
include hinput

theorem State.transformed_replaceIbuf (hl : s.ilen = 16) : State.transformed { s with ibuf := m } = s.transformed := by
  refine Vector.toList_inj.mp ?_
  rw [State.transformed_toList (s := { s with ibuf := m }) hl, State.transformed_toList hl, hinput]

/-- Of `IBUF` a command reads the input alone: with other cells that hold the same input it answers the same. -/
theorem exec_command_replaceIbuf {i : Instr} {t : State} (hc : i.isCommand = true) (h : exec i s = .next t) :
    exec i { s with ibuf := m } = .next { t with ibuf := m } := by
  obtain ⟨rfl, rfl | rfl, hr⟩ | ⟨rfl, ⟨rfl, ha⟩ | ⟨rfl, ha⟩⟩ | ⟨rfl, rfl⟩ | ⟨rfl, hr, rfl⟩ | ⟨rfl, hr, hl, rfl⟩ |
    ⟨rfl, hr, hl, rfl⟩ | ⟨rfl, ha, rfl⟩ | ⟨rfl, ha, rfl⟩ | ⟨rfl, rfl⟩ := exec_command_cases hc h
  · exact execVerifyA_of_not_refv (s := { s with ibuf := m }) hr
  · exact execVerifyB_of_not_refv (s := { s with ibuf := m }) hr
  · exact execEmitA_of_not_accepted (s := { s with ibuf := m }) (ne_true_of_eq_false ha)
  · exact execEmitB_of_not_accepted (s := { s with ibuf := m }) (ne_true_of_eq_false ha)
  · rfl
  · exact execVerifyA_of_refv (s := { s with ibuf := m }) hr
  · rw [exec, execVerifyB_of_length (s := { s with ibuf := m }) hr hl, State.transformed_replaceIbuf hinput hl]
  · exact execVerifyB_of_other_length (s := { s with ibuf := m }) hr hl
  · exact execEmitA_of_accepted (s := { s with ibuf := m }) ha
  · rw [exec, execEmitB_of_accepted (s := { s with ibuf := m }) ha, hinput]
    rfl
  · rw [exec, execDigest, hinput]
    rfl

end

/-- Settles O48: cells that agree below `ILEN` hold the same input. -/
theorem staleBytesAreIgnored : Obligations.StaleBytesAreIgnored := by
  unfold Obligations.StaleBytesAreIgnored
  intro i s t m hc hbelow h
  have hinput : State.input { s with ibuf := m } = s.input := State.input_congr_below rfl hbelow
  exact exec_command_replaceIbuf hinput hc h

/-! ## Every step answers a state (R190, R229) -/

/-- A write is ignored, faults or completes, and each is a next state. -/
theorem hostWrite_next (offset : Nat) (d : Datum) (s : State) : ∃ t, hostWrite offset d s = .next t := by
  cases he : s.status.err with
  | true => exact ⟨s, hostWrite_of_err he offset d⟩
  | false =>
    obtain ⟨c, -, ht⟩ | ⟨-, t, ht, -⟩ := hostWrite_faults_or_completes (offset := offset) (d := d) he rfl
    · exact ⟨raiseFault c s, ht⟩
    · exact ⟨t, ht⟩

theorem hostEvent_next (e : HostEvent) (s : State) : ∃ t, hostEvent e s = .next t := by
  cases e with
  | reset => exact ⟨resetEngine s, rfl⟩
  | write offset d => exact hostWrite_next offset d s
  | read offset w => exact ⟨hostRead offset w s, rfl⟩

/-- With no event to come and no word in the mixer the engine waits (R221). -/
theorem step_of_no_event {s : State} (hu : s.uop = none) (hh : s.host = []) : step s = .next s := by
  rw [step, stepOnce, hu, hh]

/-- Settles O56: the engine waits or carries out the oldest event, and no step puts a word into the mixer. -/
theorem engineNeverStops : Obligations.EngineNeverStops := by
  unfold Obligations.EngineNeverStops
  intro s hu
  obtain ⟨t, ht⟩ : ∃ t, step s = .next t := by
    cases hh : s.host with
    | nil => exact ⟨s, step_of_no_event hu hh⟩
    | cons e rest =>
      rw [step_of_nextEvent ⟨hu, hh⟩]
      exact hostEvent_next e { s with host := rest }
  exact ⟨t, ht, step_uop hu ht⟩

/-! ## What Reset leaves (R220, R221) -/

/-- Settles O57: the step is `resetEngine`, and both it and the first state are made by `State.afterReset`. -/
theorem resetClearsEngine : Obligations.ResetClearsEngine := by
  unfold Obligations.ResetClearsEngine
  refine ⟨fun s rest hn => ⟨resetEngine { s with host := rest }, step_of_nextEvent hn, ?reset⟩, ?first⟩
  case reset => exact ⟨State.afterReset_toWord s.cfg (s.resets + 1), by simp⟩
  case first => exact ⟨State.afterReset_toWord Config.cfg 0, by simp [State.reset]⟩

end Sys2Proof.Machine
end
